-- ==== Sys2Proof/Word.lean ====
section
/-! DEFINITION. The word types of the machine: what the spec treats as bit vectors (spec/00_scope.md R9, R11, R12). -/

namespace Sys2Proof

/-- A general register, the program counter, an address: 64 bits (00_scope.md R9). -/
abbrev Word := BitVec 64

/-- A SIMD&FP register seen whole: 128 bits (00_scope.md R9, 10_state.md R52). -/
abbrev Quad := BitVec 128

/-- One 32-bit lane of a SIMD&FP register, a SHA working variable (00_scope.md R13). -/
abbrev Lane := BitVec 32

/-- An instruction word: every A64 instruction is 32 bits long (30_encoding.md R75). -/
abbrev InstrWord := BitVec 32

/-- A byte of memory, a byte of an AES state. -/
abbrev Byte := BitVec 8

end Sys2Proof
end

