-- ==== Sys2Proof/Config.lean ====
section
/-! DEFINITION. What one implementation fixes, and the free values: constants with no body, so that no proof can see what
they are (spec/00_scope.md R8, spec/92_eei_decisions.md D21, D22; notes/assumptions/9.md, 10.md). -/

namespace Sys2Proof

/-- The number of byte addresses of the one flat address space: 64-bit addresses (20_memory.md R60). -/
abbrev Config.addressCount : Nat := 2 ^ 64

/-- How many cores the cluster has beside the modelled one. OPEN in the spec (60_exceptions.md R169, D21: `n_cores` is at
least 1 and no count is given), so it has no body. -/
opaque Config.otherCores : Nat

/-- `n_cores` of 00_scope.md R8: at least one core. No step reads it. -/
def Config.nCores : Nat := Config.otherCores + 1

/-- `ext_id_aa64isar0_addr` of 00_scope.md R8: where a debugger sees the external register ID_AA64ISAR0. OPEN in the spec
(60_exceptions.md R170, D22: no address in any source), so it has no body. No step reads it. -/
opaque Config.extIdAa64isar0Addr : Word

/-- Free value: what the fault address register of the target level holds after an exception is taken, which
60_exceptions.md R153 says "is not written meaningfully". The argument is a count of the free values taken so far. -/
opaque Config.freeFar : Nat → Word

end Sys2Proof
end

