-- ==== Sys2Proof/Syntax.lean ====
section
/-! DEFINITION. The instruction set as syntax: the eighteen rows of spec/opcode_table.json (30_encoding.md R83), one
constructor each, in the table's order. Operands stand in assembler order (R90) and are register numbers (R81). -/

namespace Sys2Proof

/-- One constructor per row of spec/opcode_table.json. A `Nat` operand is a register number; `Instr.WellFormed` bounds it
by the five bits of its field (30_encoding.md R81). -/
inductive Instr where
  /-- `MRS <Xt>, ID_AA64ISAR0_EL1` (40_id_register_read.md R97). -/
  | mrsIdAa64isar0 (t : Nat)
  /-- `MRS <Xt>, ID_ISAR5_EL1` (40_id_register_read.md R98). -/
  | mrsIdIsar5 (t : Nat)
  /-- `AESE <Vd>.16B, <Vn>.16B` (41_aes.md R114). -/
  | aese (d n : Nat)
  /-- `AESD <Vd>.16B, <Vn>.16B` (41_aes.md R115). -/
  | aesd (d n : Nat)
  /-- `AESMC <Vd>.16B, <Vn>.16B` (41_aes.md R116). -/
  | aesmc (d n : Nat)
  /-- `AESIMC <Vd>.16B, <Vn>.16B` (41_aes.md R117). -/
  | aesimc (d n : Nat)
  /-- `PMULL <Vd>.1Q, <Vn>.1D, <Vm>.1D` (42_pmull.md R121). -/
  | pmull (d n m : Nat)
  /-- `PMULL2 <Vd>.1Q, <Vn>.2D, <Vm>.2D` (42_pmull.md R122). -/
  | pmull2 (d n m : Nat)
  /-- `SHA1C <Qd>, <Sn>, <Vm>.4S` (43_sha1.md R126). -/
  | sha1c (d n m : Nat)
  /-- `SHA1P <Qd>, <Sn>, <Vm>.4S` (43_sha1.md R127). -/
  | sha1p (d n m : Nat)
  /-- `SHA1M <Qd>, <Sn>, <Vm>.4S` (43_sha1.md R128). -/
  | sha1m (d n m : Nat)
  /-- `SHA1H <Sd>, <Sn>` (43_sha1.md R129). -/
  | sha1h (d n : Nat)
  /-- `SHA1SU0 <Vd>.4S, <Vn>.4S, <Vm>.4S` (43_sha1.md R130). -/
  | sha1su0 (d n m : Nat)
  /-- `SHA1SU1 <Vd>.4S, <Vn>.4S` (43_sha1.md R131). -/
  | sha1su1 (d n : Nat)
  /-- `SHA256H <Qd>, <Qn>, <Vm>.4S` (44_sha256.md R141). -/
  | sha256h (d n m : Nat)
  /-- `SHA256H2 <Qd>, <Qn>, <Vm>.4S` (44_sha256.md R142). -/
  | sha256h2 (d n m : Nat)
  /-- `SHA256SU0 <Vd>.4S, <Vn>.4S` (44_sha256.md R143). -/
  | sha256su0 (d n : Nat)
  /-- `SHA256SU1 <Vd>.4S, <Vn>.4S, <Vm>.4S` (44_sha256.md R144). -/
  | sha256su1 (d n m : Nat)
  deriving DecidableEq, Repr

/-- The groups of instructions the ID fields announce (00_scope.md R3, 40_id_register_read.md R103). -/
inductive Family where
  /-- The two reads of the identification registers: not cryptographic instructions (30_encoding.md R85). -/
  | idRegisterRead
  /-- AESE, AESD, AESMC, AESIMC and the 64-bit PMULL and PMULL2: announced by the AES field. -/
  | aes
  /-- The six SHA1 instructions, SHA1H among them (90_conflicts.md C3): announced by the SHA1 field. -/
  | sha1
  /-- The four SHA256 instructions: announced by the SHA2 field. -/
  | sha2
  deriving DecidableEq, Repr

/-- Which group an instruction belongs to (00_scope.md R3). -/
def Instr.family : Instr → Family
  | .mrsIdAa64isar0 _ => .idRegisterRead
  | .mrsIdIsar5 _ => .idRegisterRead
  | .aese _ _ => .aes
  | .aesd _ _ => .aes
  | .aesmc _ _ => .aes
  | .aesimc _ _ => .aes
  | .pmull _ _ _ => .aes
  | .pmull2 _ _ _ => .aes
  | .sha1c _ _ _ => .sha1
  | .sha1p _ _ _ => .sha1
  | .sha1m _ _ _ => .sha1
  | .sha1h _ _ => .sha1
  | .sha1su0 _ _ _ => .sha1
  | .sha1su1 _ _ => .sha1
  | .sha256h _ _ _ => .sha2
  | .sha256h2 _ _ _ => .sha2
  | .sha256su0 _ _ => .sha2
  | .sha256su1 _ _ _ => .sha2

/-- A cryptographic instruction: one of the sixteen of 00_scope.md R6 (R15's glossary). -/
def Instr.isCrypto (i : Instr) : Bool := i.family != .idRegisterRead

end Sys2Proof
end

