-- ==== Sys2Proof/WellFormed.lean ====
section
/-! DEFINITION. Which terms of `Instr` an encoding can name: every register number fits its five-bit field
(30_encoding.md R81). -/

namespace Sys2Proof

/-- A register number that a five-bit field can hold: 0 to 31, all of them legal (30_encoding.md R81). -/
def isRegNumber (r : Nat) : Bool := decide (r < 32)

/-- An instruction is well-formed when every operand is a register number 0 to 31 (30_encoding.md R81, R82: no other
operand exists). -/
def Instr.WellFormed : Instr → Bool
  | .mrsIdAa64isar0 t => isRegNumber t
  | .mrsIdIsar5 t => isRegNumber t
  | .aese d n => isRegNumber d && isRegNumber n
  | .aesd d n => isRegNumber d && isRegNumber n
  | .aesmc d n => isRegNumber d && isRegNumber n
  | .aesimc d n => isRegNumber d && isRegNumber n
  | .pmull d n m => isRegNumber d && isRegNumber n && isRegNumber m
  | .pmull2 d n m => isRegNumber d && isRegNumber n && isRegNumber m
  | .sha1c d n m => isRegNumber d && isRegNumber n && isRegNumber m
  | .sha1p d n m => isRegNumber d && isRegNumber n && isRegNumber m
  | .sha1m d n m => isRegNumber d && isRegNumber n && isRegNumber m
  | .sha1h d n => isRegNumber d && isRegNumber n
  | .sha1su0 d n m => isRegNumber d && isRegNumber n && isRegNumber m
  | .sha1su1 d n => isRegNumber d && isRegNumber n
  | .sha256h d n m => isRegNumber d && isRegNumber n && isRegNumber m
  | .sha256h2 d n m => isRegNumber d && isRegNumber n && isRegNumber m
  | .sha256su0 d n => isRegNumber d && isRegNumber n
  | .sha256su1 d n m => isRegNumber d && isRegNumber n && isRegNumber m

end Sys2Proof
end

