-- ==== Sys2Proof/Decode.lean ====
section
/-! DEFINITION. The decoder, total on every word and every list of bytes, from the opcode map of 30_encoding.md R83 (a
word selects a row when `word AND mask = match`); and after it the encoder, written from the other account the spec gives
of the same encodings, the field layouts of the five formats (R76 to R80). -/

namespace Sys2Proof

/-! ## Fields of a word -/

/-- `Rd` or `Rt`, bits 4:0 (30_encoding.md R76 to R80). -/
def fieldRd (w : InstrWord) : Nat := (w.extractLsb' 0 5).toNat

/-- `Rn`, bits 9:5 (30_encoding.md R77 to R80). -/
def fieldRn (w : InstrWord) : Nat := (w.extractLsb' 5 5).toNat

/-- `Rm`, bits 20:16 (30_encoding.md R79, R80). -/
def fieldRm (w : InstrWord) : Nat := (w.extractLsb' 16 5).toNat

/-! ## The opcode map -/

/-- One row of the opcode map: `match`, `mask`, and the instruction its fields make. A row uses the fields it has. -/
structure OpcodeRow where
  pattern : InstrWord
  mask : InstrWord
  build : (rd rn rm : Nat) → Instr

/-- A word selects a row when `word AND mask = match` (30_encoding.md R83). -/
def OpcodeRow.selects (r : OpcodeRow) (w : InstrWord) : Bool := w &&& r.mask == r.pattern

/-- The eighteen rows of 30_encoding.md R83, in the table's order. -/
def opcodeTable : List OpcodeRow :=
  [ ⟨0xD5380600#32, 0xFFFFFFE0#32, fun rt _ _ => .mrsIdAa64isar0 rt⟩,
    ⟨0xD53802A0#32, 0xFFFFFFE0#32, fun rt _ _ => .mrsIdIsar5 rt⟩,
    ⟨0x4E284800#32, 0xFFFFFC00#32, fun rd rn _ => .aese rd rn⟩,
    ⟨0x4E285800#32, 0xFFFFFC00#32, fun rd rn _ => .aesd rd rn⟩,
    ⟨0x4E286800#32, 0xFFFFFC00#32, fun rd rn _ => .aesmc rd rn⟩,
    ⟨0x4E287800#32, 0xFFFFFC00#32, fun rd rn _ => .aesimc rd rn⟩,
    ⟨0x0EE0E000#32, 0xFFE0FC00#32, fun rd rn rm => .pmull rd rn rm⟩,
    ⟨0x4EE0E000#32, 0xFFE0FC00#32, fun rd rn rm => .pmull2 rd rn rm⟩,
    ⟨0x5E000000#32, 0xFFE0FC00#32, fun rd rn rm => .sha1c rd rn rm⟩,
    ⟨0x5E001000#32, 0xFFE0FC00#32, fun rd rn rm => .sha1p rd rn rm⟩,
    ⟨0x5E002000#32, 0xFFE0FC00#32, fun rd rn rm => .sha1m rd rn rm⟩,
    ⟨0x5E280800#32, 0xFFFFFC00#32, fun rd rn _ => .sha1h rd rn⟩,
    ⟨0x5E003000#32, 0xFFE0FC00#32, fun rd rn rm => .sha1su0 rd rn rm⟩,
    ⟨0x5E281800#32, 0xFFFFFC00#32, fun rd rn _ => .sha1su1 rd rn⟩,
    ⟨0x5E004000#32, 0xFFE0FC00#32, fun rd rn rm => .sha256h rd rn rm⟩,
    ⟨0x5E005000#32, 0xFFE0FC00#32, fun rd rn rm => .sha256h2 rd rn rm⟩,
    ⟨0x5E282800#32, 0xFFFFFC00#32, fun rd rn _ => .sha256su0 rd rn⟩,
    ⟨0x5E006000#32, 0xFFE0FC00#32, fun rd rn rm => .sha256su1 rd rn rm⟩ ]

/-! ## Words that match no row -/

/-- Why a word is `outside` (30_encoding.md R87). All of these are refused alike; the name only tells a reader which
sentence of the spec speaks of the word. -/
inductive Outside where
  /-- An unallocated word inside one of the four cryptographic formats (30_encoding.md R86, D24). -/
  | unallocatedNeighbour
  /-- The 8-bit PMULL or PMULL2, a base Advanced SIMD instruction (42_pmull.md R123). -/
  | pmull8bit
  /-- An `MSR` to the selector of one of the two read-only ID registers (40_id_register_read.md R101, D10). -/
  | idRegisterWrite
  /-- An `MRS` or `MSR` of any other system register (30_encoding.md R87). -/
  | otherSystemRegister
  /-- Any other word: a base-core instruction, a hint, an instruction of another extension (30_encoding.md R87, R88). -/
  | otherWord
  deriving DecidableEq, Repr

/-- A word in format CRYPTO_AES, CRYPTO_SHA2, CRYPTO_SHA3 or the polynomial multiply of SIMD_3DIFF, whatever its `size`
and `opcode` (30_encoding.md R77 to R80, R86). -/
def inCryptoFormat (w : InstrWord) : Bool :=
  w &&& 0xFF3E0C00#32 == 0x4E280800#32 || w &&& 0xFF3E0C00#32 == 0x5E280800#32 ||
    w &&& 0xFF208C00#32 == 0x5E000000#32 || w &&& 0xBF20FC00#32 == 0x0E20E000#32

/-- Which sentence of the spec speaks of a word that matches no row. -/
def classifyOutside (w : InstrWord) : Outside :=
  if w &&& 0xBFE0FC00#32 == 0x0E20E000#32 then .pmull8bit
  else if inCryptoFormat w then .unallocatedNeighbour
  else if w &&& 0xFFFFFFE0#32 == 0xD5180600#32 || w &&& 0xFFFFFFE0#32 == 0xD51802A0#32 then .idRegisterWrite
  else if w &&& 0xFFD00000#32 == 0xD5100000#32 then .otherSystemRegister
  else .otherWord

/-! ## The decoder -/

/-- Why the decoder gives no instruction. -/
inductive DecodeError where
  /-- The word matches no row of the opcode map (30_encoding.md R87). -/
  | outside (why : Outside)
  /-- Fewer than the four bytes of an instruction word (30_encoding.md R75). -/
  | truncated
  deriving DecidableEq, Repr

/-- Decode: a row of the opcode map with its field values, or `outside` (30_encoding.md R84). The state plays no part:
`crypto_enabled` is tested at execution (R85). -/
def decode (w : InstrWord) : Except DecodeError Instr :=
  match opcodeTable.find? (fun r => r.selects w) with
  | some r => .ok (r.build (fieldRd w) (fieldRn w) (fieldRm w))
  | none => .error (.outside (classifyOutside w))

/-- The word four bytes make, the first byte in bits 7:0 (20_memory.md R63). -/
def wordOfBytes (b0 b1 b2 b3 : Byte) : InstrWord := b3 ++ b2 ++ b1 ++ b0

/-- Decode the first instruction of a list of bytes and return the rest of the list. -/
def decodeBytes : List Byte → Except DecodeError (Instr × List Byte)
  | b0 :: b1 :: b2 :: b3 :: rest =>
    match decode (wordOfBytes b0 b1 b2 b3) with
    | .ok i => .ok (i, rest)
    | .error e => .error e
  | _ => .error .truncated

/-- The bytes a word lies in memory as, at increasing addresses (20_memory.md R63). -/
def bytesOfWord (w : InstrWord) : List Byte :=
  [w.extractLsb' 0 8, w.extractLsb' 8 8, w.extractLsb' 16 8, w.extractLsb' 24 8]

/-- The instruction the decoder reads from a word whose bits are numbered as spec/opcode_table.json numbers them; the bits
from `nbits` up are zero. -/
def decodeTableWord (nbits w : Nat) : Option Instr :=
  match decodeBytes (bytesOfWord (BitVec.ofNat 32 (w % 2 ^ nbits))) with
  | .ok (i, _) => some i
  | .error _ => none

/-! ## The encoder -/

/-- A register number in its five-bit field (30_encoding.md R81). -/
def regField (r : Nat) : BitVec 5 := BitVec.ofNat 5 r

/-- Format SYSREG with `L = 1`, a read; `op0 = 0b11`, that is `1 : o0` with `o0 = 1` (30_encoding.md R76). -/
def encodeMrs (op1 : BitVec 3) (crn crm : BitVec 4) (op2 : BitVec 3) (t : Nat) : InstrWord :=
  0b1101010100#10 ++ 1#1 ++ 1#1 ++ 1#1 ++ op1 ++ crn ++ crm ++ op2 ++ regField t

/-- Format CRYPTO_AES with `size = 00` (30_encoding.md R77). -/
def encodeCryptoAes (opcode : BitVec 5) (d n : Nat) : InstrWord :=
  0b01001110#8 ++ 0b00#2 ++ 0b10100#5 ++ opcode ++ 0b10#2 ++ regField n ++ regField d

/-- Format CRYPTO_SHA2 with `size = 00` (30_encoding.md R78). -/
def encodeCryptoSha2 (opcode : BitVec 5) (d n : Nat) : InstrWord :=
  0b01011110#8 ++ 0b00#2 ++ 0b10100#5 ++ opcode ++ 0b10#2 ++ regField n ++ regField d

/-- Format CRYPTO_SHA3 with `size = 00` (30_encoding.md R79). -/
def encodeCryptoSha3 (opcode : BitVec 3) (d n m : Nat) : InstrWord :=
  0b01011110#8 ++ 0b00#2 ++ 0#1 ++ regField m ++ 0#1 ++ opcode ++ 0b00#2 ++ regField n ++ regField d

/-- Format SIMD_3DIFF for the 64-bit polynomial multiply: `U = 0`, `size = 11`, `opcode = 1110` (30_encoding.md R80). -/
def encodePmull (q : BitVec 1) (d n m : Nat) : InstrWord :=
  0#1 ++ q ++ 0#1 ++ 0b01110#5 ++ 0b11#2 ++ 1#1 ++ regField m ++ 0b1110#4 ++ 0b00#2 ++ regField n ++ regField d

/-- The word of a well-formed instruction, from the formats R76 to R80, and for `MRS` the selectors of
40_id_register_read.md R96. -/
def encode : Instr → InstrWord
  | .mrsIdAa64isar0 t => encodeMrs 0b000 0b0000 0b0110 0b000 t
  | .mrsIdIsar5 t => encodeMrs 0b000 0b0000 0b0010 0b101 t
  | .aese d n => encodeCryptoAes 0b00100 d n
  | .aesd d n => encodeCryptoAes 0b00101 d n
  | .aesmc d n => encodeCryptoAes 0b00110 d n
  | .aesimc d n => encodeCryptoAes 0b00111 d n
  | .pmull d n m => encodePmull 0 d n m
  | .pmull2 d n m => encodePmull 1 d n m
  | .sha1c d n m => encodeCryptoSha3 0b000 d n m
  | .sha1p d n m => encodeCryptoSha3 0b001 d n m
  | .sha1m d n m => encodeCryptoSha3 0b010 d n m
  | .sha1h d n => encodeCryptoSha2 0b00000 d n
  | .sha1su0 d n m => encodeCryptoSha3 0b011 d n m
  | .sha1su1 d n => encodeCryptoSha2 0b00001 d n
  | .sha256h d n m => encodeCryptoSha3 0b100 d n m
  | .sha256h2 d n m => encodeCryptoSha3 0b101 d n m
  | .sha256su0 d n => encodeCryptoSha2 0b00010 d n
  | .sha256su1 d n m => encodeCryptoSha3 0b110 d n m

end Sys2Proof
end

