-- ==== Sys2Proof/Machine/State.lean ====
section
/-! DEFINITION. The state of one core, the reasons a step can stop, and the state after reset. INVENTORY.md's State heading
lists every field with the rule of spec/ that names it and its reset value. -/

namespace Sys2Proof.Machine

/-! ## Exception levels and the process state -/

/-- The Exception levels, EL0 the lowest (60_exceptions.md R164). -/
inductive EL where
  | el0 | el1 | el2 | el3
  deriving DecidableEq, Repr

/-- The levels an exception can be taken to: never EL0 (60_exceptions.md R156). -/
inductive HandlerLevel where
  | el1 | el2 | el3
  deriving DecidableEq, Repr

/-- The process state: what an exception saves into SPSR_ELx (60_exceptions.md R157). The spec gives no layout of a status
word and no instruction reads one, so its parts have names and no bit positions. -/
structure PState where
  /-- The condition flags N, Z, C, V (10_state.md R25). -/
  n : Bool
  z : Bool
  c : Bool
  v : Bool
  /-- The interrupt masks D, A, I, F (60_exceptions.md R157); true is masked. -/
  d : Bool
  a : Bool
  i : Bool
  f : Bool
  /-- The current Exception level (00_scope.md R8 `current_el`, 10_state.md R58). -/
  el : EL
  /-- The stack-pointer select: true selects the level's own SP_ELx, false SP_EL0 (60_exceptions.md R157, R158). -/
  spSel : Bool
  deriving DecidableEq, Repr

/-- What a syndrome register ESR_ELx holds (60_exceptions.md R152): the exception class, IL and ISS. -/
structure Syndrome where
  ec : BitVec 6
  il : Bool
  iss : BitVec 25
  deriving DecidableEq, Repr

/-- The registers one level has for taking an exception (60_exceptions.md R152, R153, R157, R158). -/
structure ExceptionBank where
  /-- ELR_ELx, the return address. -/
  elr : Word
  /-- SPSR_ELx, the saved process state. -/
  spsr : PState
  /-- ESR_ELx, the syndrome. -/
  esr : Syndrome
  /-- The fault address register. -/
  far : Word
  /-- VBAR_ELx, the vector base. -/
  vbar : Word
  deriving DecidableEq, Repr

/-! ## Memory -/

/-- The one address space (20_memory.md R60): the bytes of the program text by address. An unlisted address holds nothing
(R61: the text is a finite map), so no byte value is left out of the list. -/
abbrev Memory := List Host.Cell

/-- The canonical form: addresses strictly rising, all of them 64-bit addresses. -/
def Memory.wf : Memory → Bool
  | [] => true
  | [c] => decide (c.1 < Config.addressCount)
  | c :: c' :: rest => decide (c.1 < c'.1) && Memory.wf (c' :: rest)

/-! ## The launch parameters -/

/-- What the UNDEFINED exception leads to. The spec ends the run there (60_exceptions.md R159) and, marked informative,
also says how the architecture goes on into a handler (R156 to R158). A launch chooses (notes/assumptions/1.md). -/
inductive UndefinedOutcome where
  /-- The run ends in `Fault(Undefined, info, pc, word)` (R159): the spec's model outcome, and the value at reset. -/
  | endsRun
  /-- The exception is taken to its target level (R152, R153, R156 to R158). -/
  | entersHandler
  deriving DecidableEq, Repr

/-- The inputs of a launch, none of which changes during a run (00_scope.md R8). -/
structure Params where
  /-- `crypto_present`: the core was built with the Cryptographic Extension. -/
  cryptoPresent : Bool
  /-- `cryptodisable_at_reset`: the level of CRYPTODISABLE sampled during the last reset, true for asserted. -/
  cryptodisableAtReset : Bool
  /-- `secure`: the Security state; for EL3 it is SCR.NS = 0. -/
  secure : Bool
  /-- `simd_access_enabled`: no control traps or disables Advanced SIMD instructions (60_exceptions.md R154). The spec says it of
  the level a run is launched at; DESIGN CHOICE: after an exception is taken to another level the same value stands
  (notes/assumptions/28.md). -/
  simdAccessEnabled : Bool
  /-- `id_reads_not_trapped`: no hypervisor control traps reads of the ID registers (40_id_register_read.md R100). -/
  idReadsNotTrapped : Bool
  /-- `end_pc`: where a run ends (70_reset_and_hazards.md R188). -/
  endPc : Word
  /-- HCR_EL2.TGE: exceptions from EL0 go to EL2 (60_exceptions.md R156). -/
  hcrTge : Bool
  /-- The model's own: what the UNDEFINED exception leads to (R159, or R156 to R158). -/
  undefinedOutcome : UndefinedOutcome
  deriving DecidableEq, Repr

/-! ## The state -/

/-- The state of one core, with the program text it runs. -/
structure State where
  /-- X0 to X30 (10_state.md R20). -/
  x : Vector Word 31
  /-- V0 to V31 (10_state.md R52). -/
  v : Vector Quad 32
  /-- The program counter (10_state.md R23). -/
  pc : Word
  /-- The process state: flags, interrupt masks, Exception level, stack-pointer select. -/
  pstate : PState
  /-- SP_EL0 to SP_EL3, which exist and no instruction in scope uses (10_state.md R22); PRESUMED: 64 bits each
  (notes/assumptions/4.md). -/
  sp : Vector Word 4
  /-- The floating-point control register, which no instruction in scope uses (10_state.md R55); PRESUMED: 64 bits
  (notes/assumptions/4.md). -/
  fpcr : Word
  /-- The floating-point status register, which no instruction in scope uses (10_state.md R55); PRESUMED: 64 bits
  (notes/assumptions/4.md). -/
  fpsr : Word
  /-- ELR_EL1, SPSR_EL1, ESR_EL1, the fault address register of EL1, VBAR_EL1. -/
  el1 : ExceptionBank
  /-- The same five of EL2. -/
  el2 : ExceptionBank
  /-- The same five of EL3. -/
  el3 : ExceptionBank
  /-- The program text (20_memory.md R60, R61). -/
  mem : Memory
  /-- The launch parameters (00_scope.md R8). -/
  params : Params
  /-- The model's own: how many free values the run has taken (`Config.freeFar`; notes/assumptions/9.md). -/
  freeCount : Nat
  deriving DecidableEq, Repr

/-! ## Why a step stops -/

/-- The two causes of the UNDEFINED exception (60_exceptions.md R152). -/
inductive UndefinedInfo where
  /-- A cryptographic instruction while the extension is disabled or absent (R150). -/
  | cryptoDisabled
  /-- `MRS` of an ID register at EL0 (R151). -/
  | el0IdRead
  deriving DecidableEq, Repr

/-- The reasons a run ends in a fault. -/
inductive Fault where
  /-- `Fault(Undefined, info, pc, word)` of 60_exceptions.md R159, raised by the sixteen cryptographic instructions and the
  two `MRS` when the launch ends the run at the UNDEFINED exception. Safe: the hardware goes on into a handler. -/
  | undefined (info : UndefinedInfo) (pc : Word) (word : InstrWord)
  /-- A fetch from an address outside the program text: stuck (20_memory.md R61, 60_exceptions.md R154), raised by the
  fetch. Safe: nothing is said of what the hardware finds there. -/
  | fetchOutsideText (pc : Word)
  deriving DecidableEq, Repr

/-- The reasons the model declines: the spec gives the situation no meaning (00_scope.md R14). All are safe: the model
stops where the hardware goes on. -/
inductive Refusal where
  /-- An instruction of the table that has no meaning yet; raised by no arm of this model. Safe. -/
  | notModelled (mnemonic : String)
  /-- `refuse(outside_spec)`: the word at the program counter matches no row (30_encoding.md R87); raised by the step. Safe. -/
  | outsideSpec (why : DecodeError) (word : InstrWord)
  /-- `refuse(pc_misaligned)` (20_memory.md R65, D6); raised by the fetch. Safe. -/
  | pcMisaligned
  /-- `refuse(pc_wrap)`: `pc + 4` would exceed 2^64 - 1 (10_state.md R24, D6); raised by any instruction at the top of the
  address space. Safe. -/
  | pcWrap
  /-- `refuse(simd_trap_unmodelled)` (60_exceptions.md R150, D15); raised by the cryptographic instructions when the launch
  says a control traps Advanced SIMD. Safe. -/
  | simdTrapUnmodelled
  /-- `refuse(id_read_trap_unmodelled)` (40_id_register_read.md R100, D16); raised by the two `MRS` when the launch says a
  hypervisor traps them. Safe. -/
  | idReadTrapUnmodelled
  /-- The run has ended: `pc = end_pc` before a fetch (70_reset_and_hazards.md R188); raised by the fetch. It is the
  SUCCESSFUL end of a run; the machine answers no further state because the rule "says nothing of what the chip does"
  there. Safe. -/
  | runEnded
  /-- A return from exception at EL0, or to a level above the current one (60_exceptions.md R160, R166 describe neither);
  raised by `exceptionReturn`, which no instruction in scope calls. Safe. -/
  | illegalExceptionReturn
  deriving DecidableEq, Repr

/-- What a step or a meaning answers. -/
abbrev Result := Host.Outcome State Fault Refusal

/-! ## Reset -/

/-- The process state after reset: EL3 with its own stack pointer, interrupts masked, flags clear (70_reset_and_hazards.md
R182; notes/assumptions/5.md). -/
def PState.reset : PState :=
  { n := false, z := false, c := false, v := false, d := true, a := true, i := true, f := true, el := .el3, spSel := true }

/-- An exception bank after reset: every register zero, the saved process state EL0 with nothing set (the spec gives no
reset value; notes/assumptions/6.md). -/
def ExceptionBank.reset : ExceptionBank :=
  { elr := 0, spsr := ⟨false, false, false, false, false, false, false, false, .el0, false⟩, esr := ⟨0, false, 0⟩, far := 0, vbar := 0 }

/-- The launch parameters the model's reset state has (notes/assumptions/7.md): the extension built in and not disabled,
nothing trapped, and an `end_pc` that no aligned program counter equals. -/
def Params.reset : Params :=
  { cryptoPresent := true, cryptodisableAtReset := false, secure := true, simdAccessEnabled := true,
    idReadsNotTrapped := true, endPc := 0xFFFFFFFFFFFFFFFF#64, hcrTge := false, undefinedOutcome := .endsRun }

/-- The machine right after reset, before a program text is loaded (70_reset_and_hazards.md R182: the spec states the
values of `crypto_enabled` and, through it, of the two ID registers; every other value is named in the assumption log). -/
def State.reset : State :=
  { x := Vector.replicate 31 0, v := Vector.replicate 32 0, pc := 0, pstate := PState.reset, sp := Vector.replicate 4 0,
    fpcr := 0, fpsr := 0, el1 := ExceptionBank.reset, el2 := ExceptionBank.reset, el3 := ExceptionBank.reset,
    mem := [], params := Params.reset, freeCount := 0 }

end Sys2Proof.Machine
end

