-- ==== Sys2Proof/Machine/Operands.lean ====
section
/-! DEFINITION. Every operand form of the spec: the general registers with XZR, the V registers, and the views and
elements of a V register (00_scope.md R11, R12; 10_state.md R20, R52, R53). -/

namespace Sys2Proof.Machine

/-! ## General registers -/

/-- `X[t]`: registers 0 to 30, and 0 for the zero register 31 (00_scope.md R12, 10_state.md R20). -/
def State.readX (s : State) (t : Nat) : Word :=
  if h : t < 31 then s.x[t] else 0

/-- `X[t] <- val`: registers 0 to 30; a write to the zero register 31 is discarded (00_scope.md R12, 10_state.md R20). -/
def State.writeX (s : State) (t : Nat) (val : Word) : State :=
  if h : t < 31 then { s with x := s.x.set t val } else s

/-- The 32-bit view `Wt` of a general register, which no instruction in scope uses (10_state.md R22). -/
def State.readW (s : State) (t : Nat) : Lane := (s.readX t).extractLsb' 0 32

/-! ## V registers -/

/-- `V[i]`, all 128 bits (00_scope.md R12). A well-formed instruction names registers 0 to 31 only. -/
def State.readV (s : State) (i : Nat) : Quad :=
  if h : i < 32 then s.v[i] else 0

/-- `V[i] <- val`, all 128 bits (00_scope.md R12). A well-formed instruction names registers 0 to 31 only. -/
def State.writeV (s : State) (i : Nat) (val : Quad) : State :=
  if h : i < 32 then { s with v := s.v.set i val } else s

/-! ## Elements and views of a 128-bit value -/

/-- `Byte(v, i)`: bits 8i+7 to 8i; `Vn.16B` is the sixteen of them (00_scope.md R12). -/
def byteOf (v : Quad) (i : Nat) : Byte := v.extractLsb' (8 * i) 8

/-- `Elem(v, e, 32)`: bits 32e+31 to 32e; `Vn.4S` is the four of them (00_scope.md R12). -/
def laneOf (v : Quad) (e : Nat) : Lane := v.extractLsb' (32 * e) 32

/-- `Elem(v, e, 64)`: bits 64e+63 to 64e; `Vn.2D` is the two of them (00_scope.md R12). -/
def halfOf (v : Quad) (e : Nat) : Word := v.extractLsb' (64 * e) 64

/-- The scalar view `Sn`: bits 31:0, the upper bits ignored (10_state.md R52, R53). -/
def State.readS (s : State) (n : Nat) : Lane := laneOf (s.readV n) 0

/-- The value whose byte `i` is `f i` (view 16B). -/
def ofBytes (f : Nat → Byte) : Quad :=
  f 15 ++ f 14 ++ f 13 ++ f 12 ++ f 11 ++ f 10 ++ f 9 ++ f 8 ++ f 7 ++ f 6 ++ f 5 ++ f 4 ++ f 3 ++ f 2 ++ f 1 ++ f 0

/-- The value whose lane `e` is `f e` (view 4S). -/
def ofLanes (f : Nat → Lane) : Quad := f 3 ++ f 2 ++ f 1 ++ f 0

/-- `Elem(v, e, 32) <- x`: the value with one lane replaced. -/
def setLane (v : Quad) (e : Nat) (x : Lane) : Quad := ofLanes (fun k => if k = e then x else laneOf v k)

/-- What a write through the scalar view `Sd` puts in the register: the value in bits 31:0, zero above (10_state.md R53). -/
def scalarOf (x : Lane) : Quad := x.setWidth 128

end Sys2Proof.Machine
end

