-- ==== Sys2Proof/Machine/Ops.lean ====
section
/-! DEFINITION. The shared operations: memory, the derived state, advancing the program counter, taking the UNDEFINED
exception and returning from one, the checks that begin an instruction, and the fetch. -/

namespace Sys2Proof.Machine

/-! ## Memory -/

/-- The byte at an address, if the program text has one (20_memory.md R60, R61). -/
def Memory.readByte : Memory → Nat → Option Byte
  | [], _ => none
  | (a, b) :: rest, addr => if a = addr then some b else if addr < a then none else Memory.readByte rest addr

/-- Put a byte at its place in the rising list. -/
def Memory.insert : Memory → Nat → Byte → Memory
  | [], addr, val => [(addr, val)]
  | (a, b) :: rest, addr, val =>
    if addr < a then (addr, val) :: (a, b) :: rest
    else if addr = a then (addr, val) :: rest
    else (a, b) :: Memory.insert rest addr val

/-- Write one byte; an address outside the 64-bit address space does not exist, and nothing is written there. -/
def Memory.writeByte (m : Memory) (addr : Nat) (val : Byte) : Memory :=
  if addr < Config.addressCount then m.insert addr val else m

/-- `MemRead(addr, n)`: `n` bytes, the byte at `addr` in bits 7:0 (00_scope.md R14, 20_memory.md R63); none where one of
them is outside the program text. -/
def Memory.read (m : Memory) (addr : Nat) : (n : Nat) → Option (BitVec (8 * n))
  | 0 => some 0
  | n + 1 =>
    match m.read addr n, m.readByte (addr + n) with
    | some low, some b => some ((b ++ low).cast (by omega))
    | _, _ => none

/-- `MemWrite(addr, n, v)`, little-endian (00_scope.md R14); no instruction in scope uses it, loading a program does. -/
def Memory.write (m : Memory) (addr : Nat) (n : Nat) (val : BitVec (8 * n)) : Memory :=
  (List.range n).foldl (fun m i => m.writeByte (addr + i) (val.extractLsb' (8 * i) 8)) m

/-! ## Derived state -/

/-- `crypto_enabled = crypto_present && !cryptodisable_at_reset` (10_state.md R27). -/
def State.cryptoEnabled (s : State) : Bool := s.params.cryptoPresent && !s.params.cryptodisableAtReset

/-- `current_el` (00_scope.md R8). -/
def State.currentEl (s : State) : EL := s.pstate.el

/-- SCR.NS, as far as the spec reads it: the Security state (00_scope.md R8, 60_exceptions.md R164). -/
def State.scrNs (s : State) : Bool := !s.params.secure

/-- The rank of a level, EL0 the lowest. -/
def EL.rank : EL → Nat
  | .el0 => 0
  | .el1 => 1
  | .el2 => 2
  | .el3 => 3

/-- A handler level as an Exception level. -/
def HandlerLevel.toEL : HandlerLevel → EL
  | .el1 => .el1
  | .el2 => .el2
  | .el3 => .el3

/-- The exception registers of a level. -/
def State.bank (s : State) : HandlerLevel → ExceptionBank
  | .el1 => s.el1
  | .el2 => s.el2
  | .el3 => s.el3

/-- Replace the exception registers of a level. -/
def State.setBank (s : State) (l : HandlerLevel) (b : ExceptionBank) : State :=
  match l with
  | .el1 => { s with el1 := b }
  | .el2 => { s with el2 := b }
  | .el3 => { s with el3 := b }

/-! ## Completing an instruction -/

/-- `pc <- pc + 4`, or `refuse(pc_wrap)` where that would exceed 2^64 - 1 (10_state.md R24). -/
def advance (s : State) : Result :=
  if s.pc.toNat + 4 < Config.addressCount then .next { s with pc := s.pc + 4 } else .refused .pcWrap

/-! ## Taking an exception, and returning from one -/

/-- The level a synchronous exception is taken to: the current one, or from EL0 to EL1, or to EL2 when HCR_EL2.TGE is set
(60_exceptions.md R156). -/
def State.exceptionTarget (s : State) : HandlerLevel :=
  match s.pstate.el with
  | .el0 => if s.params.hcrTge then .el2 else .el1
  | .el1 => .el1
  | .el2 => .el2
  | .el3 => .el3

/-- The offset of a synchronous exception's vector from VBAR_ELx: taken from the same level while using SP_EL0 or SP_ELx,
or from a lower level in AArch64 state (60_exceptions.md R158; its fourth, 0x600, is for AArch32 state, which the machine
never runs, 00_scope.md R7). -/
def State.vectorOffset (s : State) (target : HandlerLevel) : Word :=
  if s.pstate.el = target.toEL then (if s.pstate.spSel then 0x200 else 0x000) else 0x400

/-- The syndrome of an UNDEFINED instruction: exception class 0 ("Unknown reason"), IL = 1, an all-zero ISS
(60_exceptions.md R152). -/
def undefinedSyndrome : Syndrome := { ec := 0b000000#6, il := true, iss := 0 }

/-- The process state a handler starts in: D, A, I, F set, the level's own stack pointer, the target level; the flags stay
(60_exceptions.md R157). -/
def PState.onEntry (p : PState) (target : HandlerLevel) : PState :=
  { p with d := true, a := true, i := true, f := true, el := target.toEL, spSel := true }

/-- Taking a synchronous exception: ELR_ELx, SPSR_ELx and ESR_ELx are written, the fault address register is not written
meaningfully (a free value), the process state changes, and control goes to VBAR_ELx plus the vector's offset. General and
SIMD registers are not saved (60_exceptions.md R153, R156 to R158). -/
def takeException (esr : Syndrome) (s : State) : State :=
  let target := s.exceptionTarget
  let b := s.bank target
  { s.setBank target { b with elr := s.pc, spsr := s.pstate, esr := esr, far := Config.freeFar s.freeCount } with
    pstate := s.pstate.onEntry target
    pc := b.vbar + s.vectorOffset target
    freeCount := s.freeCount + 1 }

/-- The return from an exception handled at the current level: `pc` from ELR_ELx and the process state from SPSR_ELx
(60_exceptions.md R160), to the same level or a lower one (R166). `ERET` is outside the decoder, so no instruction in scope
calls it. -/
def exceptionReturn (s : State) : Result :=
  let back (b : ExceptionBank) : Result :=
    if b.spsr.el.rank ≤ s.pstate.el.rank then .next { s with pc := b.elr, pstate := b.spsr }
    else .refused .illegalExceptionReturn
  match s.pstate.el with
  | .el0 => .refused .illegalExceptionReturn
  | .el1 => back s.el1
  | .el2 => back s.el2
  | .el3 => back s.el3

/-- `raise Undefined(info)` at the instruction `word`: precise, no register written (60_exceptions.md R155). It ends the run
in `Fault(Undefined, info, pc, word)` (R159), or, where the launch says so, takes the exception (R156 to R158). -/
def raiseUndefined (info : UndefinedInfo) (word : InstrWord) (s : State) : Result :=
  match s.params.undefinedOutcome with
  | .endsRun => .fault (.undefined info s.pc word)
  | .entersHandler => .next (takeException undefinedSyndrome s)

/-! ## How an instruction begins and ends -/

/-- `CheckCrypto()`, then the rest of the instruction `i` (60_exceptions.md R150). The order of the two tests matters.
DESIGN CHOICE: the launch's `simd_access_enabled` is tested at every level, also at a handler's
(notes/assumptions/28.md). -/
def checkCrypto (i : Instr) (s : State) (rest : Result) : Result :=
  if !s.cryptoEnabled then raiseUndefined .cryptoDisabled (encode i) s
  else if !s.params.simdAccessEnabled then .refused .simdTrapUnmodelled
  else rest

/-- A cryptographic instruction: `CheckCrypto()`, `V[d] <- result`, `pc <- pc + 4` (41_aes.md R113, 43_sha1.md R125,
44_sha256.md R140). The result is computed from the state before the write, so operands may overlap (30_encoding.md R81). -/
def cryptoWrite (i : Instr) (d : Nat) (result : Quad) (s : State) : Result :=
  checkCrypto i s (advance (s.writeV d result))

/-! ## The fetch -/

/-- `pc[1:0] = 0b00` (20_memory.md R65). -/
def pcAligned (pc : Word) : Bool := pc.extractLsb' 0 2 == 0#2

/-- The word a list of bytes holds at an address: four bytes, little-endian (20_memory.md R63). -/
def Memory.fetchWord (m : Memory) (pc : Word) : Option InstrWord := m.read pc.toNat 4

/-- The fetch: a misaligned `pc` is refused (20_memory.md R65), at `end_pc` the run has ended before the fetch
(70_reset_and_hazards.md R188), and outside the program text the machine is stuck (20_memory.md R61). -/
def fetch (s : State) (run : InstrWord → Result) : Result :=
  if !pcAligned s.pc then .refused .pcMisaligned
  else if s.pc = s.params.endPc then .refused .runEnded
  else
    match s.mem.fetchWord s.pc with
    | some w => run w
    | none => .fault (.fetchOutsideText s.pc)

/-- Decode a word and run what it stands for; a word outside the spec is refused (30_encoding.md R87). -/
def decodeAndRun (w : InstrWord) (run : Instr → Result) : Result :=
  match decode w with
  | .ok i => run i
  | .error why => .refused (.outsideSpec why w)

end Sys2Proof.Machine
end

