-- ==== Sys2Proof/Machine/Aes.lean ====
section
/-! DEFINITION. The AES instructions: AESE, AESD, AESMC, AESIMC (41_aes.md R105 to R117). -/

namespace Sys2Proof.Machine

/-! ## Arithmetic in GF(2^8) -/

/-- `xtime(a)`: multiplication by x, reduced by 0x11B (41_aes.md R106). -/
def xtime (a : Byte) : Byte := if a.getLsbD 7 then (a <<< 1) ^^^ 0x1B#8 else a <<< 1

/-- `xtime` applied `i` times. -/
def xtimes (a : Byte) : Nat → Byte
  | 0 => a
  | i + 1 => xtime (xtimes a i)

/-- The EOR over the bits `i` of `b` below `k` that are set of `xtime` applied `i` times to `a`. -/
def gfMulBits (a b : Byte) : Nat → Byte
  | 0 => 0
  | k + 1 => gfMulBits a b k ^^^ (if b.getLsbD k then xtimes a k else 0)

/-- `GFmul(a, b)`, multiplication of two bytes in GF(2^8) (41_aes.md R106). -/
def gfMul (a b : Byte) : Byte := gfMulBits a b 8

/-! ## The S-boxes -/

/-- The table `SBOX`, row = high nibble, column = low nibble (41_aes.md R107). -/
def sboxTable : List Byte :=
  [0x63, 0x7c, 0x77, 0x7b, 0xf2, 0x6b, 0x6f, 0xc5, 0x30, 0x01, 0x67, 0x2b, 0xfe, 0xd7, 0xab, 0x76] ++
  [0xca, 0x82, 0xc9, 0x7d, 0xfa, 0x59, 0x47, 0xf0, 0xad, 0xd4, 0xa2, 0xaf, 0x9c, 0xa4, 0x72, 0xc0] ++
  [0xb7, 0xfd, 0x93, 0x26, 0x36, 0x3f, 0xf7, 0xcc, 0x34, 0xa5, 0xe5, 0xf1, 0x71, 0xd8, 0x31, 0x15] ++
  [0x04, 0xc7, 0x23, 0xc3, 0x18, 0x96, 0x05, 0x9a, 0x07, 0x12, 0x80, 0xe2, 0xeb, 0x27, 0xb2, 0x75] ++
  [0x09, 0x83, 0x2c, 0x1a, 0x1b, 0x6e, 0x5a, 0xa0, 0x52, 0x3b, 0xd6, 0xb3, 0x29, 0xe3, 0x2f, 0x84] ++
  [0x53, 0xd1, 0x00, 0xed, 0x20, 0xfc, 0xb1, 0x5b, 0x6a, 0xcb, 0xbe, 0x39, 0x4a, 0x4c, 0x58, 0xcf] ++
  [0xd0, 0xef, 0xaa, 0xfb, 0x43, 0x4d, 0x33, 0x85, 0x45, 0xf9, 0x02, 0x7f, 0x50, 0x3c, 0x9f, 0xa8] ++
  [0x51, 0xa3, 0x40, 0x8f, 0x92, 0x9d, 0x38, 0xf5, 0xbc, 0xb6, 0xda, 0x21, 0x10, 0xff, 0xf3, 0xd2] ++
  [0xcd, 0x0c, 0x13, 0xec, 0x5f, 0x97, 0x44, 0x17, 0xc4, 0xa7, 0x7e, 0x3d, 0x64, 0x5d, 0x19, 0x73] ++
  [0x60, 0x81, 0x4f, 0xdc, 0x22, 0x2a, 0x90, 0x88, 0x46, 0xee, 0xb8, 0x14, 0xde, 0x5e, 0x0b, 0xdb] ++
  [0xe0, 0x32, 0x3a, 0x0a, 0x49, 0x06, 0x24, 0x5c, 0xc2, 0xd3, 0xac, 0x62, 0x91, 0x95, 0xe4, 0x79] ++
  [0xe7, 0xc8, 0x37, 0x6d, 0x8d, 0xd5, 0x4e, 0xa9, 0x6c, 0x56, 0xf4, 0xea, 0x65, 0x7a, 0xae, 0x08] ++
  [0xba, 0x78, 0x25, 0x2e, 0x1c, 0xa6, 0xb4, 0xc6, 0xe8, 0xdd, 0x74, 0x1f, 0x4b, 0xbd, 0x8b, 0x8a] ++
  [0x70, 0x3e, 0xb5, 0x66, 0x48, 0x03, 0xf6, 0x0e, 0x61, 0x35, 0x57, 0xb9, 0x86, 0xc1, 0x1d, 0x9e] ++
  [0xe1, 0xf8, 0x98, 0x11, 0x69, 0xd9, 0x8e, 0x94, 0x9b, 0x1e, 0x87, 0xe9, 0xce, 0x55, 0x28, 0xdf] ++
  [0x8c, 0xa1, 0x89, 0x0d, 0xbf, 0xe6, 0x42, 0x68, 0x41, 0x99, 0x2d, 0x0f, 0xb0, 0x54, 0xbb, 0x16]

/-- The table `INVSBOX` (41_aes.md R108). -/
def invSboxTable : List Byte :=
  [0x52, 0x09, 0x6a, 0xd5, 0x30, 0x36, 0xa5, 0x38, 0xbf, 0x40, 0xa3, 0x9e, 0x81, 0xf3, 0xd7, 0xfb] ++
  [0x7c, 0xe3, 0x39, 0x82, 0x9b, 0x2f, 0xff, 0x87, 0x34, 0x8e, 0x43, 0x44, 0xc4, 0xde, 0xe9, 0xcb] ++
  [0x54, 0x7b, 0x94, 0x32, 0xa6, 0xc2, 0x23, 0x3d, 0xee, 0x4c, 0x95, 0x0b, 0x42, 0xfa, 0xc3, 0x4e] ++
  [0x08, 0x2e, 0xa1, 0x66, 0x28, 0xd9, 0x24, 0xb2, 0x76, 0x5b, 0xa2, 0x49, 0x6d, 0x8b, 0xd1, 0x25] ++
  [0x72, 0xf8, 0xf6, 0x64, 0x86, 0x68, 0x98, 0x16, 0xd4, 0xa4, 0x5c, 0xcc, 0x5d, 0x65, 0xb6, 0x92] ++
  [0x6c, 0x70, 0x48, 0x50, 0xfd, 0xed, 0xb9, 0xda, 0x5e, 0x15, 0x46, 0x57, 0xa7, 0x8d, 0x9d, 0x84] ++
  [0x90, 0xd8, 0xab, 0x00, 0x8c, 0xbc, 0xd3, 0x0a, 0xf7, 0xe4, 0x58, 0x05, 0xb8, 0xb3, 0x45, 0x06] ++
  [0xd0, 0x2c, 0x1e, 0x8f, 0xca, 0x3f, 0x0f, 0x02, 0xc1, 0xaf, 0xbd, 0x03, 0x01, 0x13, 0x8a, 0x6b] ++
  [0x3a, 0x91, 0x11, 0x41, 0x4f, 0x67, 0xdc, 0xea, 0x97, 0xf2, 0xcf, 0xce, 0xf0, 0xb4, 0xe6, 0x73] ++
  [0x96, 0xac, 0x74, 0x22, 0xe7, 0xad, 0x35, 0x85, 0xe2, 0xf9, 0x37, 0xe8, 0x1c, 0x75, 0xdf, 0x6e] ++
  [0x47, 0xf1, 0x1a, 0x71, 0x1d, 0x29, 0xc5, 0x89, 0x6f, 0xb7, 0x62, 0x0e, 0xaa, 0x18, 0xbe, 0x1b] ++
  [0xfc, 0x56, 0x3e, 0x4b, 0xc6, 0xd2, 0x79, 0x20, 0x9a, 0xdb, 0xc0, 0xfe, 0x78, 0xcd, 0x5a, 0xf4] ++
  [0x1f, 0xdd, 0xa8, 0x33, 0x88, 0x07, 0xc7, 0x31, 0xb1, 0x12, 0x10, 0x59, 0x27, 0x80, 0xec, 0x5f] ++
  [0x60, 0x51, 0x7f, 0xa9, 0x19, 0xb5, 0x4a, 0x0d, 0x2d, 0xe5, 0x7a, 0x9f, 0x93, 0xc9, 0x9c, 0xef] ++
  [0xa0, 0xe0, 0x3b, 0x4d, 0xae, 0x2a, 0xf5, 0xb0, 0xc8, 0xeb, 0xbb, 0x3c, 0x83, 0x53, 0x99, 0x61] ++
  [0x17, 0x2b, 0x04, 0x7e, 0xba, 0x77, 0xd6, 0x26, 0xe1, 0x69, 0x14, 0x63, 0x55, 0x21, 0x0c, 0x7d]

/-- `SBOX[a]` (41_aes.md R107). -/
def sbox (a : Byte) : Byte := sboxTable.getD a.toNat 0

/-- `INVSBOX[a]` (41_aes.md R108). -/
def invSbox (a : Byte) : Byte := invSboxTable.getD a.toNat 0

/-! ## The transformations of the state -/

/-- `AESSubBytes(v)` (41_aes.md R107). -/
def aesSubBytes (v : Quad) : Quad := ofBytes (fun i => sbox (byteOf v i))

/-- `AESInvSubBytes(v)` (41_aes.md R108). -/
def aesInvSubBytes (v : Quad) : Quad := ofBytes (fun i => invSbox (byteOf v i))

/-- The byte index of the state element in row `r` and column `c` (41_aes.md R105). -/
def stateIndex (r c : Nat) : Nat := r + 4 * c

/-- `AESShiftRows(v)`: row `r` rotated left by `r` columns (41_aes.md R109). -/
def aesShiftRows (v : Quad) : Quad :=
  ofBytes (fun i => byteOf v (stateIndex (i % 4) ((i / 4 + i % 4) % 4)))

/-- `AESInvShiftRows(v)`: row `r` rotated right by `r` columns, `(c - r) mod 4` taken non-negative (41_aes.md R110). -/
def aesInvShiftRows (v : Quad) : Quad :=
  ofBytes (fun i => byteOf v (stateIndex (i % 4) ((i / 4 + 4 - i % 4) % 4)))

/-- One column multiplied by the matrix whose first row is `m0 m1 m2 m3` and whose row `k` is that row rotated right by `k`;
byte `k` of the result column (41_aes.md R111, R112). -/
def mixByte (m0 m1 m2 m3 : Byte) (a : Nat → Byte) (k : Nat) : Byte :=
  gfMul (a (k % 4)) m0 ^^^ gfMul (a ((k + 1) % 4)) m1 ^^^ gfMul (a ((k + 2) % 4)) m2 ^^^ gfMul (a ((k + 3) % 4)) m3

/-- Every column of the state multiplied by one matrix. -/
def mixWith (m0 m1 m2 m3 : Byte) (v : Quad) : Quad :=
  ofBytes (fun i => mixByte m0 m1 m2 m3 (fun r => byteOf v (stateIndex r (i / 4))) (i % 4))

/-- `AESMixColumns(v)` (41_aes.md R111). -/
def aesMixColumns (v : Quad) : Quad := mixWith 0x02 0x03 0x01 0x01 v

/-- `AESInvMixColumns(v)` (41_aes.md R112). -/
def aesInvMixColumns (v : Quad) : Quad := mixWith 0x0e 0x0b 0x0d 0x09 v

/-! ## The instructions -/

/-- `AESE <Vd>.16B, <Vn>.16B`: AES single round encryption (41_aes.md R114). -/
def execAese (d n : Nat) (s : State) : Result :=
  cryptoWrite (.aese d n) d (aesSubBytes (aesShiftRows (s.readV d ^^^ s.readV n))) s

/-- `AESD <Vd>.16B, <Vn>.16B`: AES single round decryption (41_aes.md R115). -/
def execAesd (d n : Nat) (s : State) : Result :=
  cryptoWrite (.aesd d n) d (aesInvSubBytes (aesInvShiftRows (s.readV d ^^^ s.readV n))) s

/-- `AESMC <Vd>.16B, <Vn>.16B`: AES mix columns (41_aes.md R116). -/
def execAesmc (d n : Nat) (s : State) : Result :=
  cryptoWrite (.aesmc d n) d (aesMixColumns (s.readV n)) s

/-- `AESIMC <Vd>.16B, <Vn>.16B`: AES inverse mix columns (41_aes.md R117). -/
def execAesimc (d n : Nat) (s : State) : Result :=
  cryptoWrite (.aesimc d n) d (aesInvMixColumns (s.readV n)) s

end Sys2Proof.Machine
end

