-- ==== Sys2Proof/Machine/IdRegisters.lean ====
section
/-! DEFINITION. The two identification registers, field by field, and the two `MRS` that read them
(10_state.md R26 to R51, 40_id_register_read.md R95 to R102). -/

namespace Sys2Proof.Machine

/-! ## ID_AA64ISAR0_EL1 -/

/-- ID_AA64ISAR0_EL1, its fields from bit 63 down: RES0 (R29), DP (R30), RES0 (R31), RDM (R32), RES0 (R33), Atomic (R34),
CRC32 (R35), SHA2 (R36), SHA1 (R37), AES (R38), RES0 (R39), all of 10_state.md. -/
def idAa64isar0 (cryptoEnabled : Bool) : Word :=
  0#16 ++ 0x1#4 ++ 0#12 ++ 0x1#4 ++ 0#4 ++ 0x2#4 ++ 0x1#4 ++
    (if cryptoEnabled then 0x1#4 else 0x0#4) ++ (if cryptoEnabled then 0x1#4 else 0x0#4) ++
    (if cryptoEnabled then 0x2#4 else 0x0#4) ++ 0#4

/-- What ID_AA64ISAR0_EL1 reads as in a state (10_state.md R40). -/
def State.idAa64isar0 (s : State) : Word := Machine.idAa64isar0 s.cryptoEnabled

/-- The external, memory-mapped register ID_AA64ISAR0, which returns the same 64-bit value; a debugger's read, not a step
of the machine (60_exceptions.md R170). DESIGN CHOICE: every read at the address succeeds, in every state and of all 64 bits at
once, where the source gives no access-permission rule, no lock and no access width (notes/assumptions/29.md). -/
def State.externalRead (s : State) (addr : Word) : Option Word :=
  if addr = Config.extIdAa64isar0Addr then some s.idAa64isar0 else none

/-! ## ID_ISAR5_EL1 -/

/-- ID_ISAR5_EL1, its fields from bit 31 down: RES0 (R42), RDM (R43), RES0 (R44), CRC32 (R45), SHA2 (R46), SHA1 (R47),
AES (R48), SEVL (R49), all of 10_state.md. -/
def idIsar5 (cryptoEnabled : Bool) : BitVec 32 :=
  0#4 ++ 0x1#4 ++ 0#4 ++ 0x1#4 ++
    (if cryptoEnabled then 0x1#4 else 0x0#4) ++ (if cryptoEnabled then 0x1#4 else 0x0#4) ++
    (if cryptoEnabled then 0x2#4 else 0x0#4) ++ 0x1#4

/-- What ID_ISAR5_EL1 reads as in a state (10_state.md R50). -/
def State.idIsar5 (s : State) : BitVec 32 := Machine.idIsar5 s.cryptoEnabled

/-! ## The reads -/

/-- Whether a level may read the two registers: the accessibility table, `-` under EL0 and `RO` under the five other
columns, in either Security state (40_id_register_read.md R99). -/
def idReadAllowed (el : EL) (_secure : Bool) : Bool :=
  match el with
  | .el0 => false
  | .el1 => true
  | .el2 => true
  | .el3 => true

/-- The read `i` of an ID register that holds `value`: Undefined where the level has no access (R99), then the trap premise
(R100), then `X[t] <- value` (discarded for XZR, R102) and `pc <- pc + 4` (40_id_register_read.md R97, R98). -/
def readIdRegister (i : Instr) (t : Nat) (value : Word) (s : State) : Result :=
  if !idReadAllowed s.currentEl s.params.secure then raiseUndefined .el0IdRead (encode i) s
  else if !s.params.idReadsNotTrapped then .refused .idReadTrapUnmodelled
  else advance (s.writeX t value)

/-- `MRS <Xt>, ID_AA64ISAR0_EL1` (40_id_register_read.md R97). -/
def execMrsIdAa64isar0 (t : Nat) (s : State) : Result :=
  readIdRegister (.mrsIdAa64isar0 t) t s.idAa64isar0 s

/-- `MRS <Xt>, ID_ISAR5_EL1`: the 32-bit value zero-extended (40_id_register_read.md R98, D12). -/
def execMrsIdIsar5 (t : Nat) (s : State) : Result :=
  readIdRegister (.mrsIdIsar5 t) t (s.idIsar5.setWidth 64) s

end Sys2Proof.Machine
end

