-- ==== Sys2Proof/Machine/Pmull.lean ====
section
/-! DEFINITION. The 64-bit polynomial multiply long: PMULL and PMULL2 (42_pmull.md R120 to R122). -/

namespace Sys2Proof.Machine

/-- The EOR over the bits `i` of `b` below `k` that are set of `zext_128(a) << i`. -/
def polyMulBits (a b : Word) : Nat → Quad
  | 0 => 0
  | k + 1 => polyMulBits a b k ^^^ (if b.getLsbD k then a.setWidth 128 <<< k else 0)

/-- `PolyMul64(a, b)`, the carry-less product of two 64-bit values, 128 bits wide, not reduced (42_pmull.md R120). -/
def polyMul64 (a b : Word) : Quad := polyMulBits a b 64

/-- `PMULL <Vd>.1Q, <Vn>.1D, <Vm>.1D`: the lower halves (42_pmull.md R121). -/
def execPmull (d n m : Nat) (s : State) : Result :=
  cryptoWrite (.pmull d n m) d (polyMul64 (halfOf (s.readV n) 0) (halfOf (s.readV m) 0)) s

/-- `PMULL2 <Vd>.1Q, <Vn>.2D, <Vm>.2D`: the upper halves (42_pmull.md R122). -/
def execPmull2 (d n m : Nat) (s : State) : Result :=
  cryptoWrite (.pmull2 d n m) d (polyMul64 (halfOf (s.readV n) 1) (halfOf (s.readV m) 1)) s

end Sys2Proof.Machine
end

