-- ==== Sys2Proof/Machine/Primitives.lean ====
section
/-! DEFINITION. The arithmetic primitives of 00_scope.md R13. Addition of `Lane`s is `BitVec` addition, modulo 2^32; EOR,
AND, OR and NOT are the bitwise operators. -/

namespace Sys2Proof.Machine

/-- `ROL(x, n)` on a `w`-bit value, `0 <= n < w` (00_scope.md R13). -/
def rol {w : Nat} (x : BitVec w) (n : Nat) : BitVec w := x <<< n ||| x >>> (w - n)

/-- `ROR(x, n) = ROL(x, (w-n) mod w)` (00_scope.md R13). -/
def ror {w : Nat} (x : BitVec w) (n : Nat) : BitVec w := rol x ((w - n) % w)

/-- `LSR(x, n)`: right shift bringing in zeros (00_scope.md R13). -/
def lsr {w : Nat} (x : BitVec w) (n : Nat) : BitVec w := x >>> n

/-- `SHAchoose` (00_scope.md R13). -/
def shaChoose (x y z : Lane) : Lane := ((y ^^^ z) &&& x) ^^^ z

/-- `SHAparity` (00_scope.md R13). -/
def shaParity (x y z : Lane) : Lane := x ^^^ y ^^^ z

/-- `SHAmajority` (00_scope.md R13). -/
def shaMajority (x y z : Lane) : Lane := (x &&& y) ||| ((x ||| y) &&& z)

/-- `SHAhashSIGMA0` (00_scope.md R13). -/
def shaHashSigma0 (x : Lane) : Lane := ror x 2 ^^^ ror x 13 ^^^ ror x 22

/-- `SHAhashSIGMA1` (00_scope.md R13). -/
def shaHashSigma1 (x : Lane) : Lane := ror x 6 ^^^ ror x 11 ^^^ ror x 25

end Sys2Proof.Machine
end

