-- ==== Sys2Proof/Machine/Sha1.lean ====
section
/-! DEFINITION. The six SHA1 instructions (43_sha1.md R125 to R131). -/

namespace Sys2Proof.Machine

/-- `ROL_160(Y : X, 32)`: rotate the 160-bit value with `Y` on top left by 32 and split it again (43_sha1.md R126). -/
def rol160 (y : Lane) (x : Quad) : Lane × Quad :=
  let z : BitVec 160 := rol (y ++ x) 32
  (z.extractLsb' 128 32, z.extractLsb' 0 128)

/-- One iteration of the loop of 43_sha1.md R126, with the round function `f` and the schedule word `w`. -/
def sha1Round (f : Lane → Lane → Lane → Lane) (w : Lane) (yx : Lane × Quad) : Lane × Quad :=
  let x := yx.2
  let t := f (laneOf x 1) (laneOf x 2) (laneOf x 3)
  let y := yx.1 + rol (laneOf x 0) 5 + t + w
  rol160 y (setLane x 1 (rol (laneOf x 1) 30))

/-- The first `k` iterations of the loop, for `e` in 0 to `k - 1`. -/
def sha1Rounds (f : Lane → Lane → Lane → Lane) (w : Quad) (yx : Lane × Quad) : Nat → Lane × Quad
  | 0 => yx
  | k + 1 => sha1Round f (laneOf w k) (sha1Rounds f w yx k)

/-- The four rounds of SHA1C, SHA1P and SHA1M: the new `X`; the final `Y` is written nowhere (43_sha1.md R126). -/
def sha1Update (f : Lane → Lane → Lane → Lane) (x : Quad) (y : Lane) (w : Quad) : Quad :=
  (sha1Rounds f w (y, x) 4).2

/-- `SHA1C <Qd>, <Sn>, <Vm>.4S`: hash update, choose (43_sha1.md R126). -/
def execSha1c (d n m : Nat) (s : State) : Result :=
  cryptoWrite (.sha1c d n m) d (sha1Update shaChoose (s.readV d) (s.readS n) (s.readV m)) s

/-- `SHA1P <Qd>, <Sn>, <Vm>.4S`: hash update, parity (43_sha1.md R127). -/
def execSha1p (d n m : Nat) (s : State) : Result :=
  cryptoWrite (.sha1p d n m) d (sha1Update shaParity (s.readV d) (s.readS n) (s.readV m)) s

/-- `SHA1M <Qd>, <Sn>, <Vm>.4S`: hash update, majority (43_sha1.md R128). -/
def execSha1m (d n m : Nat) (s : State) : Result :=
  cryptoWrite (.sha1m d n m) d (sha1Update shaMajority (s.readV d) (s.readS n) (s.readV m)) s

/-- `SHA1H <Sd>, <Sn>`: fixed rotate; bits 127:32 of `V[d]` become 0 (43_sha1.md R129). -/
def execSha1h (d n : Nat) (s : State) : Result :=
  cryptoWrite (.sha1h d n) d (scalarOf (rol (s.readS n) 30)) s

/-- The result of SHA1SU0: the low half of `Vn` above the high half of `Vd`, with `Vd` and `Vm` EORed in (43_sha1.md R130). -/
def sha1Schedule0 (op1 op2 op3 : Quad) : Quad :=
  let r : Quad := halfOf op2 0 ++ halfOf op1 1
  r ^^^ op1 ^^^ op3

/-- `SHA1SU0 <Vd>.4S, <Vn>.4S, <Vm>.4S`: schedule update 0 (43_sha1.md R130). -/
def execSha1su0 (d n m : Nat) (s : State) : Result :=
  cryptoWrite (.sha1su0 d n m) d (sha1Schedule0 (s.readV d) (s.readV n) (s.readV m)) s

/-- The result of SHA1SU1 (43_sha1.md R131). -/
def sha1Schedule1 (op1 op2 : Quad) : Quad :=
  let t := op1 ^^^ lsr op2 32
  ofLanes (fun e => if e = 3 then rol (laneOf t 3) 1 ^^^ rol (laneOf t 0) 2 else rol (laneOf t e) 1)

/-- `SHA1SU1 <Vd>.4S, <Vn>.4S`: schedule update 1 (43_sha1.md R131). -/
def execSha1su1 (d n : Nat) (s : State) : Result :=
  cryptoWrite (.sha1su1 d n) d (sha1Schedule1 (s.readV d) (s.readV n)) s

end Sys2Proof.Machine
end

