-- ==== Sys2Proof/Machine/Sha256.lean ====
section
/-! DEFINITION. The four SHA256 instructions (44_sha256.md R140 to R144). -/

namespace Sys2Proof.Machine

/-- `ROL_256(Y : X, 32)`: rotate the 256-bit value with `Y` on top left by 32 and split it; the pair is `(Y, X)`
(44_sha256.md R140). -/
def rol256 (y x : Quad) : Quad × Quad :=
  let z : BitVec 256 := rol (y ++ x) 32
  (z.extractLsb' 128 128, z.extractLsb' 0 128)

/-- One iteration of the loop of `SHA256hash` on the pair `(Y, X)`, with the schedule word `w` (44_sha256.md R140). -/
def sha256Round (w : Lane) (yx : Quad × Quad) : Quad × Quad :=
  let y := yx.1
  let x := yx.2
  let chs := shaChoose (laneOf y 0) (laneOf y 1) (laneOf y 2)
  let maj := shaMajority (laneOf x 0) (laneOf x 1) (laneOf x 2)
  let t := laneOf y 3 + shaHashSigma1 (laneOf y 0) + chs + w
  rol256 (setLane y 3 (t + shaHashSigma0 (laneOf x 0) + maj)) (setLane x 3 (t + laneOf x 3))

/-- The first `k` iterations of the loop, for `e` in 0 to `k - 1`. -/
def sha256Rounds (w : Quad) (yx : Quad × Quad) : Nat → Quad × Quad
  | 0 => yx
  | k + 1 => sha256Round (laneOf w k) (sha256Rounds w yx k)

/-- `SHA256hash(X, Y, W, part1)` (44_sha256.md R140). -/
def sha256Hash (x y w : Quad) (part1 : Bool) : Quad :=
  if part1 then (sha256Rounds w (y, x) 4).2 else (sha256Rounds w (y, x) 4).1

/-- `SHA256H <Qd>, <Qn>, <Vm>.4S`: hash update, part 1 (44_sha256.md R141). -/
def execSha256h (d n m : Nat) (s : State) : Result :=
  cryptoWrite (.sha256h d n m) d (sha256Hash (s.readV d) (s.readV n) (s.readV m) true) s

/-- `SHA256H2 <Qd>, <Qn>, <Vm>.4S`: hash update, part 2, the destination the `Y` argument (44_sha256.md R142). -/
def execSha256h2 (d n m : Nat) (s : State) : Result :=
  cryptoWrite (.sha256h2 d n m) d (sha256Hash (s.readV n) (s.readV d) (s.readV m) false) s

/-- `sigma0` of the message schedule: ROR 7, ROR 18, LSR 3 (44_sha256.md R143). -/
def shaScheduleSigma0 (x : Lane) : Lane := ror x 7 ^^^ ror x 18 ^^^ lsr x 3

/-- `sigma1` of the message schedule: ROR 17, ROR 19, LSR 10 (44_sha256.md R144). -/
def shaScheduleSigma1 (x : Lane) : Lane := ror x 17 ^^^ ror x 19 ^^^ lsr x 10

/-- The result of SHA256SU0 (44_sha256.md R143). -/
def sha256Schedule0 (op1 op2 : Quad) : Quad :=
  let t : Quad := laneOf op2 0 ++ op1.extractLsb' 32 96
  ofLanes (fun e => shaScheduleSigma0 (laneOf t e) + laneOf op1 e)

/-- `SHA256SU0 <Vd>.4S, <Vn>.4S`: schedule update 0 (44_sha256.md R143). -/
def execSha256su0 (d n : Nat) (s : State) : Result :=
  cryptoWrite (.sha256su0 d n) d (sha256Schedule0 (s.readV d) (s.readV n)) s

/-- The result of SHA256SU1: lanes 0 and 1 from the upper half of `Vm`, lanes 2 and 3 from the two lanes just produced
(44_sha256.md R144). -/
def sha256Schedule1 (op1 op2 op3 : Quad) : Quad :=
  let t0 : Quad := laneOf op3 0 ++ op2.extractLsb' 32 96
  let elt (x : Lane) (e : Nat) : Lane := shaScheduleSigma1 x + laneOf op1 e + laneOf t0 e
  let r0 := elt (laneOf op3 2) 0
  let r1 := elt (laneOf op3 3) 1
  elt r1 3 ++ elt r0 2 ++ r1 ++ r0

/-- `SHA256SU1 <Vd>.4S, <Vn>.4S, <Vm>.4S`: schedule update 1 (44_sha256.md R144). -/
def execSha256su1 (d n m : Nat) (s : State) : Result :=
  cryptoWrite (.sha256su1 d n m) d (sha256Schedule1 (s.readV d) (s.readV n) (s.readV m)) s

end Sys2Proof.Machine
end

