-- ==== Sys2Proof/Machine/Dispatch.lean ====
section
/-! DEFINITION. Every instruction's meaning, one arm per constructor of `Instr`. -/

namespace Sys2Proof.Machine

def exec (i : Instr) (s : State) : Host.Outcome State Fault Refusal :=
  match i with
  -- 40_id_register_read.md
  | .mrsIdAa64isar0 t => Sys2Proof.Machine.execMrsIdAa64isar0 t s
  | .mrsIdIsar5 t => Sys2Proof.Machine.execMrsIdIsar5 t s
  -- 41_aes.md
  | .aese d n => Sys2Proof.Machine.execAese d n s
  | .aesd d n => Sys2Proof.Machine.execAesd d n s
  | .aesmc d n => Sys2Proof.Machine.execAesmc d n s
  | .aesimc d n => Sys2Proof.Machine.execAesimc d n s
  -- 42_pmull.md
  | .pmull d n m => Sys2Proof.Machine.execPmull d n m s
  | .pmull2 d n m => Sys2Proof.Machine.execPmull2 d n m s
  -- 43_sha1.md
  | .sha1c d n m => Sys2Proof.Machine.execSha1c d n m s
  | .sha1p d n m => Sys2Proof.Machine.execSha1p d n m s
  | .sha1m d n m => Sys2Proof.Machine.execSha1m d n m s
  | .sha1h d n => Sys2Proof.Machine.execSha1h d n s
  | .sha1su0 d n m => Sys2Proof.Machine.execSha1su0 d n m s
  | .sha1su1 d n => Sys2Proof.Machine.execSha1su1 d n s
  -- 44_sha256.md
  | .sha256h d n m => Sys2Proof.Machine.execSha256h d n m s
  | .sha256h2 d n m => Sys2Proof.Machine.execSha256h2 d n m s
  | .sha256su0 d n => Sys2Proof.Machine.execSha256su0 d n s
  | .sha256su1 d n m => Sys2Proof.Machine.execSha256su1 d n m s

end Sys2Proof.Machine
end

