-- ==== Sys2Proof/Machine/Step.lean ====
section
/-! DEFINITION. One step: fetch, decode, run (20_memory.md R63, R69; 30_encoding.md R84, R87); and the placing of a word
where the next step fetches it. -/

namespace Sys2Proof.Machine

/-- One step of the machine. -/
def step (s : State) : Host.Outcome State Fault Refusal :=
  fetch s (fun w => decodeAndRun w (fun i => exec i s))

/-- `s` with a word, the bits from `nbits` up zero, placed at the program counter, so that the next step runs it. A program
text is loaded from outside the machine (70_reset_and_hazards.md R187); the fetch needs an aligned `pc` and a `pc` that is
not `end_pc`, so a `pc` that is misaligned is aligned, and an `end_pc` that stands there moves to an address no aligned
`pc` equals. -/
def State.withFetchWord (s : State) (nbits w : Nat) : State :=
  let pc := s.pc &&& 0xFFFFFFFFFFFFFFFC#64
  { s with
    pc := pc
    mem := s.mem.write pc.toNat 4 (BitVec.ofNat 32 (w % 2 ^ nbits))
    params := { s.params with endPc := if s.params.endPc = pc then 0xFFFFFFFFFFFFFFFF#64 else s.params.endPc } }

end Sys2Proof.Machine
end

