-- ==== Sys2Proof/Machine/Flags.lean ====
section
/-! DEFINITION. The condition flags. No instruction in scope reads or writes N, Z, C or V (10_state.md R25), so the spec
has no flag computation; here are the flags as one value, for the statements that say they are left alone. -/

namespace Sys2Proof.Machine

/-- N, Z, C, V as one value, N the highest (10_state.md R25). -/
def State.nzcv (s : State) : BitVec 4 :=
  BitVec.ofBool s.pstate.n ++ BitVec.ofBool s.pstate.z ++ BitVec.ofBool s.pstate.c ++ BitVec.ofBool s.pstate.v

end Sys2Proof.Machine
end

