-- ==== Sys2Proof/Machine/Reset.lean ====
section
/-! DEFINITION. Reset as the spec describes it, and the launch of a run (70_reset_and_hazards.md R180 to R187,
60_exceptions.md R169). -/

namespace Sys2Proof.Machine

/-- The one thing the spec says a reset does: the core samples CRYPTODISABLE (true for asserted) and holds the sampled
level until its next reset (70_reset_and_hazards.md R180). The pin itself is not state (10_state.md R57). DESIGN CHOICE: this
is the sampling alone, and every other field stays as it was before the reset, where R182 leaves X, V, `pc`, the level and the
masks unspecified after it (notes/assumptions/27.md). -/
def State.sampleCryptodisable (s : State) (asserted : Bool) : State :=
  { s with params := { s.params with cryptodisableAtReset := asserted } }

/-- The cores of a cluster reset together: one CRYPTODISABLE input applies to all of them (60_exceptions.md R169). DESIGN
CHOICE: it is the sampling alone, as in `State.sampleCryptodisable` (notes/assumptions/27.md). -/
def clusterReset (asserted : Bool) (cores : List State) : List State :=
  cores.map (fun s => s.sampleCryptodisable asserted)

/-- The launch record of a run (70_reset_and_hazards.md R187): the parameters, the program text as words by address (a list;
the spec's finite map is one that meets `Launch.TextIsMap`), the initial `pc`, the level, and the initial registers. -/
structure Launch where
  params : Params
  currentEl : EL
  text : List (Word × InstrWord)
  pc : Word
  x : Vector Word 31
  v : Vector Quad 32
  deriving DecidableEq, Repr

/-- The text is a map as 20_memory.md R61 says: 4-byte aligned addresses, and no address named twice. -/
abbrev Launch.TextIsMap (l : Launch) : Prop :=
  l.text.Pairwise (fun e f => e.1 ≠ f.1) ∧ ∀ e ∈ l.text, pcAligned e.1 = true

/-- The memory that holds a program text, each word little-endian at its address (20_memory.md R61, R63). DESIGN CHOICE: a list
that is no map (`Launch.TextIsMap`: a repeated or a misaligned address), which R61 and R187 do not admit, is written word by
word and byte by byte, a later entry over an earlier one (notes/assumptions/26.md). -/
def textMemory (text : List (Word × InstrWord)) : Memory :=
  text.foldl (fun m w => m.write w.1.toNat 4 w.2) []

/-- The state a run starts in (70_reset_and_hazards.md R187). What the launch record does not name is as after reset, but for
the stack-pointer select, which at EL0 is SP_EL0 (notes/assumptions/5.md). -/
def Launch.start (l : Launch) : State :=
  { State.reset with
    x := l.x, v := l.v, pc := l.pc, pstate := { PState.reset with el := l.currentEl, spSel := decide (l.currentEl ≠ .el0) },
    mem := textMemory l.text,
    params := l.params }

end Sys2Proof.Machine
end

