-- ==== Sys2Proof/Safety.lean ====
section
/-! DEFINITION. The terms claims are made in: when an instruction executes normally, what one leaves alone, the invariant of
the machine, and what a run and its successful end are (60_exceptions.md R159, 70_reset_and_hazards.md R188). -/

namespace Sys2Proof.Machine

/-! ## When an instruction executes normally -/

/-- A cryptographic instruction executes normally: the extension is enabled, the premise on Advanced SIMD holds, and
`pc + 4` does not wrap (60_exceptions.md R150, 10_state.md R24). It holds at every Exception level (R164). -/
abbrev State.CryptoReady (s : State) : Prop :=
  s.cryptoEnabled = true ∧ s.params.simdAccessEnabled = true ∧ s.pc.toNat + 4 < Config.addressCount

/-- A read of an ID register executes normally: not at EL0, the premise on traps holds, and `pc + 4` does not wrap
(40_id_register_read.md R97 to R100, 10_state.md R24). -/
abbrev State.IdReadReady (s : State) : Prop :=
  s.currentEl ≠ .el0 ∧ s.params.idReadsNotTrapped = true ∧ s.pc.toNat + 4 < Config.addressCount

/-! ## What stays -/

/-- Everything but the X registers, the V registers and the program counter is the same; memory is compared byte by byte. -/
structure SameBesideRegisters (s t : State) : Prop where
  pstate : t.pstate = s.pstate
  sp : t.sp = s.sp
  fpcr : t.fpcr = s.fpcr
  fpsr : t.fpsr = s.fpsr
  el1 : t.el1 = s.el1
  el2 : t.el2 = s.el2
  el3 : t.el3 = s.el3
  params : t.params = s.params
  freeCount : t.freeCount = s.freeCount
  mem : ∀ a, t.mem.readByte a = s.mem.readByte a

/-- What a cryptographic instruction with destination `d` changes when it executes normally: `V[d]` and the program counter,
and nothing else (10_state.md R21, R24, R25, R54; 41_aes.md R113, 43_sha1.md R125, 44_sha256.md R140). -/
structure OnlyVAndPc (s t : State) (d : Nat) : Prop where
  pc : t.pc = s.pc + 4
  v : ∀ j, j ≠ d → t.readV j = s.readV j
  x : ∀ r, t.readX r = s.readX r
  rest : SameBesideRegisters s t

/-- What a read of an ID register into `Xr` changes when it executes normally: `Xr` and the program counter, and nothing else
(10_state.md R21, R24, R25, R54; 40_id_register_read.md R95). Register 31 is no register: nothing but `pc` changes. -/
structure OnlyXAndPc (s t : State) (r : Nat) : Prop where
  pc : t.pc = s.pc + 4
  x : ∀ j, j ≠ r → t.readX j = s.readX j
  v : ∀ j, t.readV j = s.readV j
  rest : SameBesideRegisters s t

/-- The V register an instruction writes: `Rd` of the sixteen cryptographic instructions (10_state.md R54). -/
def vDest : Instr → Option Nat
  | .mrsIdAa64isar0 _ => none
  | .mrsIdIsar5 _ => none
  | .aese d _ => some d
  | .aesd d _ => some d
  | .aesmc d _ => some d
  | .aesimc d _ => some d
  | .pmull d _ _ => some d
  | .pmull2 d _ _ => some d
  | .sha1c d _ _ => some d
  | .sha1p d _ _ => some d
  | .sha1m d _ _ => some d
  | .sha1h d _ => some d
  | .sha1su0 d _ _ => some d
  | .sha1su1 d _ => some d
  | .sha256h d _ _ => some d
  | .sha256h2 d _ _ => some d
  | .sha256su0 d _ => some d
  | .sha256su1 d _ _ => some d

/-- The X register an instruction writes: `Rt` of the two `MRS` (10_state.md R21). -/
def xDest : Instr → Option Nat
  | .mrsIdAa64isar0 t => some t
  | .mrsIdIsar5 t => some t
  | _ => none

/-- The same result, with every next state changed by `f`. -/
def onNext (f : State → State) : Result → Result
  | .next t => .next (f t)
  | .fault r => .fault r
  | .refused r => .refused r

/-- The state with another Security state. -/
def State.withSecure (s : State) (b : Bool) : State := { s with params := { s.params with secure := b } }

/-! ## The invariant -/

/-- What every step keeps: an aligned program counter (20_memory.md R65), a memory in its canonical form, and vector bases
that are aligned (they are where a handler starts, 60_exceptions.md R158). -/
structure State.Inv (s : State) : Prop where
  pc : pcAligned s.pc = true
  mem : s.mem.wf = true
  vbar1 : pcAligned s.el1.vbar = true
  vbar2 : pcAligned s.el2.vbar = true
  vbar3 : pcAligned s.el3.vbar = true

/-! ## Runs -/

/-- `t` is reached from `s` by steps that answer a next state. -/
inductive Reaches : State → State → Prop where
  | refl (s : State) : Reaches s s
  | step {s t u : State} : Reaches s t → step t = .next u → Reaches s u

/-- A run from `s` ends successfully in `t`: it reaches `t`, and there `pc = end_pc` before a fetch
(70_reset_and_hazards.md R188). -/
def RunsTo (s t : State) : Prop := Reaches s t ∧ t.pc = t.params.endPc ∧ pcAligned t.pc = true

/-- A run from `s` is safe: no state it reaches faults (60_exceptions.md R159: a faulted state is terminal and never a
successful final state). -/
def RunSafe (s : State) : Prop := ∀ t, Reaches s t → ∀ r, step t ≠ .fault r

end Sys2Proof.Machine
end

