-- ==== Sys2Proof/Certificates/Slice0/Obligations.lean ====
section
/-! DEFINITION. The statements for the provers, and the reference forms they compare the machine with: the lane-by-lane and
round-by-round accounts the spec's prose gives beside its pseudocode. -/

open Sys2Proof Sys2Proof.Machine

/-! ## Reference forms -/

namespace Sys2Proof.Reference

/-- `SR` of 41_aes.md R109: result byte `i` takes source byte `SR[i]`. -/
def shiftRowsSource : List Nat := [0, 5, 10, 15, 4, 9, 14, 3, 8, 13, 2, 7, 12, 1, 6, 11]

/-- `ISR` of 41_aes.md R110. -/
def invShiftRowsSource : List Nat := [0, 13, 10, 7, 4, 1, 14, 11, 8, 5, 2, 15, 12, 9, 6, 3]

/-- Bit `k` of the carry-less product of `a` and `b`: the EOR over `i` of `b[i] AND a[k-i]` (42_pmull.md R120, bit by bit). -/
def polyMulBit (a b : Word) (k : Nat) : Bool :=
  (List.range 64).foldl (fun acc i => acc ^^ (b.getLsbD i && decide (i ≤ k) && a.getLsbD (k - i))) false

/-- The five SHA-1 working variables. -/
structure Sha1Vars where
  a : Lane
  b : Lane
  c : Lane
  d : Lane
  e : Lane
  deriving DecidableEq, Repr

/-- One SHA-1 round: `T = e + ROL(a,5) + f(b,c,d) + W; e = d; d = c; c = ROL(b,30); b = a; a = T` (43_sha1.md R126). -/
def sha1Round (f : Lane → Lane → Lane → Lane) (v : Sha1Vars) (w : Lane) : Sha1Vars :=
  { a := v.e + rol v.a 5 + f v.b v.c v.d + w, b := v.a, c := rol v.b 30, d := v.c, e := v.d }

/-- Four SHA-1 rounds with the schedule words of the lanes of `w`, lane 0 first. -/
def sha1FourRounds (f : Lane → Lane → Lane → Lane) (w : Quad) (v : Sha1Vars) : Sha1Vars :=
  ([0, 1, 2, 3].map (laneOf w)).foldl (sha1Round f) v

/-- The working variables a register of lanes a, b, c, d and a separate `e` hold (43_sha1.md R125). -/
def sha1Vars (abcd : Quad) (e : Lane) : Sha1Vars :=
  ⟨laneOf abcd 0, laneOf abcd 1, laneOf abcd 2, laneOf abcd 3, e⟩

/-- The eight SHA-256 working variables. -/
structure Sha256Vars where
  a : Lane
  b : Lane
  c : Lane
  d : Lane
  e : Lane
  f : Lane
  g : Lane
  h : Lane
  deriving DecidableEq, Repr

/-- One SHA-256 round: `T1 = h + SIGMA1(e) + Ch(e,f,g) + (K+W)`, new `e = d + T1`, new `a = T1 + SIGMA0(a) + Maj(a,b,c)`, the
others moved along by one (44_sha256.md R140). -/
def sha256Round (v : Sha256Vars) (w : Lane) : Sha256Vars :=
  let t1 := v.h + shaHashSigma1 v.e + shaChoose v.e v.f v.g + w
  { a := t1 + shaHashSigma0 v.a + shaMajority v.a v.b v.c, b := v.a, c := v.b, d := v.c,
    e := v.d + t1, f := v.e, g := v.f, h := v.g }

/-- Four SHA-256 rounds with the schedule words of the lanes of `w`, lane 0 first. -/
def sha256FourRounds (w : Quad) (v : Sha256Vars) : Sha256Vars := ([0, 1, 2, 3].map (laneOf w)).foldl sha256Round v

/-- The working variables two registers of lanes a, b, c, d and e, f, g, h hold (44_sha256.md R140). -/
def sha256Vars (abcd efgh : Quad) : Sha256Vars :=
  ⟨laneOf abcd 0, laneOf abcd 1, laneOf abcd 2, laneOf abcd 3, laneOf efgh 0, laneOf efgh 1, laneOf efgh 2, laneOf efgh 3⟩

/-- The schedule words registers hold, four a register, lane 0 first: word `k` of the list. -/
def scheduleWord (regs : List Quad) (k : Nat) : Lane := laneOf (regs.getD (k / 4) 0) (k % 4)

end Sys2Proof.Reference

/-! ## Encoding, fetch and step -/

/-- Words of the spec decode to the instructions they stand for (95_test_vectors.md T-E1, T-E5, T-E12, T-E15, T-E18, T-E20,
T-E22). -/
def Obligations.SpecWordsDecode : Prop :=
  decode 0x4E284820#32 = .ok (.aese 0 1) ∧ decode 0x5E020020#32 = .ok (.sha1c 0 1 2) ∧
  decode 0x5E280820#32 = .ok (.sha1h 0 1) ∧ decode 0x0EE2E020#32 = .ok (.pmull 0 1 2) ∧
  decode 0xD53802A5#32 = .ok (.mrsIdIsar5 5) ∧ decode 0x4EFFE131#32 = .ok (.pmull2 17 9 31) ∧
  decode 0xD53802BF#32 = .ok (.mrsIdIsar5 31)

/-- The word of every well-formed instruction, built from the formats of 30_encoding.md R76 to R80, decodes by the opcode map
of R83 to that instruction. -/
def Obligations.DecodeOfEncode : Prop := ∀ i : Instr, i.WellFormed = true → decode (encode i) = .ok i

/-- Every word that decodes is the word of the instruction it decodes to, and that instruction is well-formed: no word has a
second spelling, and every value of a register field is legal (30_encoding.md R81, R91). -/
def Obligations.EncodeOfDecode : Prop :=
  ∀ (w : InstrWord) (i : Instr), decode w = .ok i → i.WellFormed = true ∧ encode i = w

/-- 30_encoding.md R84: the eighteen rows are pairwise disjoint, so a row may be tested in any order; decode is total, a row
with its field values or `outside`. (That decoding does not depend on `crypto_enabled` is `decode`'s type: it takes no
state.) -/
def Obligations.OpcodeRowsDisjoint : Prop :=
  opcodeTable.length = 18 ∧
  opcodeTable.Pairwise (fun r q => ∀ w : InstrWord, ¬ (r.selects w = true ∧ q.selects w = true)) ∧
  (∀ (w : InstrWord) (r : OpcodeRow), r ∈ opcodeTable → r.selects w = true →
    decode w = .ok (r.build (fieldRd w) (fieldRn w) (fieldRm w))) ∧
  ∀ w : InstrWord, (∀ r ∈ opcodeTable, r.selects w = false) → ∃ why, decode w = .error (.outside why)

/-- 30_encoding.md R87: a word that matches no row is refused, whatever the state, and never raises Undefined. For the
unallocated neighbours of R86, where R86 lets a model raise Undefined instead, the refusal is the model's choice
(notes/assumptions/20.md). -/
def Obligations.OutsideWordRefused : Prop :=
  ∀ (s : State) (w : InstrWord), pcAligned s.pc = true → s.pc ≠ s.params.endPc → s.mem.fetchWord s.pc = some w →
    (∀ r ∈ opcodeTable, w &&& r.mask ≠ r.pattern) → ∃ why, step s = .refused (.outsideSpec (.outside why) w)

/-- The step runs the decoded instruction: where the word at an aligned program counter that is not `end_pc` decodes to an
instruction, the step is that instruction's meaning at that state. -/
def Obligations.StepRunsDecodedInstruction : Prop :=
  ∀ (s : State) (w : InstrWord) (i : Instr), pcAligned s.pc = true → s.pc ≠ s.params.endPc →
    s.mem.fetchWord s.pc = some w → decode w = .ok i → step s = exec i s

/-- 20_memory.md R63: the word at `a` is `mem[a] | mem[a+1] << 8 | mem[a+2] << 16 | mem[a+3] << 24`; the bytes 20 48 28 4E are
AESE V0.16B, V1.16B. -/
def Obligations.FetchIsLittleEndian : Prop :=
  (∀ (m : Memory) (a : Word) (b0 b1 b2 b3 : Byte), m.readByte a.toNat = some b0 → m.readByte (a.toNat + 1) = some b1 →
    m.readByte (a.toNat + 2) = some b2 → m.readByte (a.toNat + 3) = some b3 →
    m.fetchWord a = some (b0.setWidth 32 ||| b1.setWidth 32 <<< 8 ||| b2.setWidth 32 <<< 16 ||| b3.setWidth 32 <<< 24)) ∧
  decodeBytes [0x20, 0x48, 0x28, 0x4E] = .ok (.aese 0 1, [])

/-- Where the fetch stops: a misaligned `pc` is refused (20_memory.md R65), at `end_pc` the run has ended before the fetch
(70_reset_and_hazards.md R188), and where a byte of the word is outside the program text the machine is stuck
(20_memory.md R61). The model's choices in it: a misaligned `pc` that equals `end_pc` is refused as misaligned
(notes/assumptions/17.md), the end of a run answers the refusal `runEnded` (notes/assumptions/12.md), and the stuck fetch is a
fault, a word of which only some bytes are listed being outside the text too (notes/assumptions/11.md). -/
def Obligations.FetchStops : Prop :=
  ∀ s : State,
    (s.pc.toNat % 4 ≠ 0 → step s = .refused .pcMisaligned) ∧
    (s.pc.toNat % 4 = 0 → s.pc = s.params.endPc → step s = .refused .runEnded) ∧
    (s.pc.toNat % 4 = 0 → s.pc ≠ s.params.endPc → (∃ k, k < 4 ∧ s.mem.readByte (s.pc.toNat + k) = none) →
      step s = .fault (.fetchOutsideText s.pc))

/-! ## The identification registers -/

/-- ID_AA64ISAR0_EL1, the whole register and each field, in every state (10_state.md R27 to R40). That the four reserved fields,
and so those bits of the whole constant, read as zero is a choice: the spec's decision D11, which the model follows
(notes/assumptions/16.md). -/
def Obligations.IdAa64isar0Value : Prop :=
  ∀ s : State,
    let enabled := s.params.cryptoPresent && !s.params.cryptodisableAtReset
    let r := s.idAa64isar0
    r = (if enabled then 0x0000100010211120#64 else 0x0000100010210000#64) ∧
    r.extractLsb' 48 16 = 0 ∧ r.extractLsb' 44 4 = 0x1 ∧ r.extractLsb' 32 12 = 0 ∧ r.extractLsb' 28 4 = 0x1 ∧
    r.extractLsb' 24 4 = 0 ∧ r.extractLsb' 20 4 = 0x2 ∧ r.extractLsb' 16 4 = 0x1 ∧
    r.extractLsb' 12 4 = (if enabled then 0x1 else 0x0) ∧ r.extractLsb' 8 4 = (if enabled then 0x1 else 0x0) ∧
    r.extractLsb' 4 4 = (if enabled then 0x2 else 0x0) ∧ r.extractLsb' 0 4 = 0

/-- ID_ISAR5_EL1, the whole register and each field, in every state (10_state.md R27, R41 to R50). That the two reserved fields,
and so those bits of the whole constant, read as zero is a choice: the spec's decision D11, which the model follows
(notes/assumptions/16.md). -/
def Obligations.IdIsar5Value : Prop :=
  ∀ s : State,
    let enabled := s.params.cryptoPresent && !s.params.cryptodisableAtReset
    let r := s.idIsar5
    r = (if enabled then 0x01011121#32 else 0x01010001#32) ∧
    r.extractLsb' 28 4 = 0 ∧ r.extractLsb' 24 4 = 0x1 ∧ r.extractLsb' 20 4 = 0 ∧ r.extractLsb' 16 4 = 0x1 ∧
    r.extractLsb' 12 4 = (if enabled then 0x1 else 0x0) ∧ r.extractLsb' 8 4 = (if enabled then 0x1 else 0x0) ∧
    r.extractLsb' 4 4 = (if enabled then 0x2 else 0x0) ∧ r.extractLsb' 0 4 = 0x1

/-- `MRS <Xt>, ID_AA64ISAR0_EL1` completes at EL1, EL2 and EL3 in either Security state: `Xt` receives the constant (nothing
does when `t = 31`, which reads 0), and nothing else but `pc` changes (40_id_register_read.md R97, R99, R102). That the reserved
bits of the constant are zero is a choice: the spec's decision D11, which the model follows (notes/assumptions/16.md). -/
def Obligations.MrsIdAa64isar0Completes : Prop :=
  ∀ (s : State) (t : Nat), t < 32 → s.IdReadReady → ∃ u, exec (.mrsIdAa64isar0 t) s = .next u ∧
    u.readX t = (if t = 31 then 0 else if s.cryptoEnabled then 0x0000100010211120#64 else 0x0000100010210000#64) ∧
    OnlyXAndPc s u t

/-- `MRS <Xt>, ID_ISAR5_EL1` completes at EL1, EL2 and EL3 in either Security state: `Xt` receives the 32-bit constant
zero-extended (nothing does when `t = 31`, which reads 0), and nothing else but `pc` changes (40_id_register_read.md R98,
R99, R102). That the upper half of `Xt` is zero (decision D12) and the reserved bits are (D11) are choices of the spec, which the
model follows (notes/assumptions/16.md). -/
def Obligations.MrsIdIsar5Completes : Prop :=
  ∀ (s : State) (t : Nat), t < 32 → s.IdReadReady → ∃ u, exec (.mrsIdIsar5 t) s = .next u ∧
    u.readX t = (if t = 31 then 0 else if s.cryptoEnabled then 0x0000000001011121#64 else 0x0000000001010001#64) ∧
    OnlyXAndPc s u t

/-- At EL0 both reads raise Undefined, XZR as destination included, whatever `crypto_enabled` and the trap premise say
(40_id_register_read.md R99, R102; 60_exceptions.md R151, R162): the run ends in the fault that names the cause, the
instruction's address and its word (R159), or the exception is taken (R156 to R158). That a launch says which is the model's
choice (notes/assumptions/1.md). -/
def Obligations.MrsAtEl0RaisesUndefined : Prop :=
  ∀ (s : State) (i : Instr) (t : Nat), i = .mrsIdAa64isar0 t ∨ i = .mrsIdIsar5 t → s.currentEl = .el0 →
    (s.params.undefinedOutcome = .endsRun → exec i s = .fault (.undefined .el0IdRead s.pc (encode i))) ∧
    (s.params.undefinedOutcome = .entersHandler → exec i s = .next (takeException undefinedSyndrome s))

/-- The Security state changes no outcome of any step (00_scope.md R8, 60_exceptions.md R165): a step from the state with
another value of `secure` is the same step, with that value still in the next state. -/
def Obligations.SecurityStateChangesNothing : Prop :=
  ∀ (s : State) (b : Bool), step (s.withSecure b) = onNext (fun t => t.withSecure b) (step s)

/-- The ID registers and the external view of the first hold their values over every step: they cannot be written, and two
reads agree (10_state.md R51, 20_memory.md R66, 60_exceptions.md R170, 70_reset_and_hazards.md R191). That the external read can
never be denied, so that a step changes nothing there either, is the model's choice (notes/assumptions/29.md), and so is that
there is one address for it (notes/assumptions/10.md). -/
def Obligations.IdRegistersNeverChange : Prop :=
  ∀ s t : State, step s = .next t →
    t.idAa64isar0 = s.idAa64isar0 ∧ t.idIsar5 = s.idIsar5 ∧
    ∀ a : Word, t.externalRead a = s.externalRead a ∧ (∀ v, s.externalRead a = some v → v = t.idAa64isar0)

/-- 40_id_register_read.md R103: where the UNDEFINED exception ends the run (R159; the launch's choice of the two outcomes is the
model's, notes/assumptions/1.md), a cryptographic instruction executes without it
exactly when the field that announces it holds its non-zero value; the three fields are all zero or all non-zero, and
ID_ISAR5_EL1's fields agree with them. -/
def Obligations.AnnouncedExactlyWhenDefined : Prop :=
  ∀ s : State, s.params.undefinedOutcome = .endsRun →
    (∀ i : Instr, i.family = .aes →
      ((∀ info pc w, exec i s ≠ .fault (.undefined info pc w)) ↔ s.idAa64isar0.extractLsb' 4 4 = 0x2)) ∧
    (∀ i : Instr, i.family = .sha1 →
      ((∀ info pc w, exec i s ≠ .fault (.undefined info pc w)) ↔ s.idAa64isar0.extractLsb' 8 4 = 0x1)) ∧
    (∀ i : Instr, i.family = .sha2 →
      ((∀ info pc w, exec i s ≠ .fault (.undefined info pc w)) ↔ s.idAa64isar0.extractLsb' 12 4 = 0x1)) ∧
    (s.idAa64isar0.extractLsb' 4 12 = 0 ∨
      s.idAa64isar0.extractLsb' 4 4 ≠ 0 ∧ s.idAa64isar0.extractLsb' 8 4 ≠ 0 ∧ s.idAa64isar0.extractLsb' 12 4 ≠ 0) ∧
    s.idIsar5.extractLsb' 4 12 = s.idAa64isar0.extractLsb' 4 12

/-! ## AES -/

/-- AESE completes: byte `i` of the new `V[d]` is `SBOX` of byte `SR[i]` of `V[d] EOR V[n]`, and nothing else but `pc`
changes (41_aes.md R107, R109, R114). -/
def Obligations.AeseCompletes : Prop :=
  ∀ (s : State) (d n : Nat), d < 32 → n < 32 → s.CryptoReady → ∃ t, exec (.aese d n) s = .next t ∧
    (∀ i, i < 16 → byteOf (t.readV d) i =
      sbox (byteOf (s.readV d ^^^ s.readV n) (Reference.shiftRowsSource.getD i 0))) ∧
    OnlyVAndPc s t d

/-- AESD completes: byte `i` of the new `V[d]` is `INVSBOX` of byte `ISR[i]` of `V[d] EOR V[n]`, and nothing else but `pc`
changes (41_aes.md R108, R110, R115). -/
def Obligations.AesdCompletes : Prop :=
  ∀ (s : State) (d n : Nat), d < 32 → n < 32 → s.CryptoReady → ∃ t, exec (.aesd d n) s = .next t ∧
    (∀ i, i < 16 → byteOf (t.readV d) i =
      invSbox (byteOf (s.readV d ^^^ s.readV n) (Reference.invShiftRowsSource.getD i 0))) ∧
    OnlyVAndPc s t d

/-- AESMC completes: each column of `V[n]` is multiplied by the MixColumns matrix into `V[d]`, whose old value plays no part,
and nothing else but `pc` changes (41_aes.md R111, R116). -/
def Obligations.AesmcCompletes : Prop :=
  ∀ (s : State) (d n : Nat), d < 32 → n < 32 → s.CryptoReady → ∃ t, exec (.aesmc d n) s = .next t ∧
    (∀ c, c < 4 →
      let a := fun k => byteOf (s.readV n) (4 * c + k)
      let b := fun k => byteOf (t.readV d) (4 * c + k)
      b 0 = gfMul (a 0) 2 ^^^ gfMul (a 1) 3 ^^^ a 2 ^^^ a 3 ∧
      b 1 = a 0 ^^^ gfMul (a 1) 2 ^^^ gfMul (a 2) 3 ^^^ a 3 ∧
      b 2 = a 0 ^^^ a 1 ^^^ gfMul (a 2) 2 ^^^ gfMul (a 3) 3 ∧
      b 3 = gfMul (a 0) 3 ^^^ a 1 ^^^ a 2 ^^^ gfMul (a 3) 2) ∧
    OnlyVAndPc s t d

/-- AESIMC completes: each column of `V[n]` is multiplied by the inverse matrix into `V[d]`, and nothing else but `pc`
changes (41_aes.md R112, R117). -/
def Obligations.AesimcCompletes : Prop :=
  ∀ (s : State) (d n : Nat), d < 32 → n < 32 → s.CryptoReady → ∃ t, exec (.aesimc d n) s = .next t ∧
    (∀ c, c < 4 →
      let a := fun k => byteOf (s.readV n) (4 * c + k)
      let b := fun k => byteOf (t.readV d) (4 * c + k)
      b 0 = gfMul (a 0) 0x0e ^^^ gfMul (a 1) 0x0b ^^^ gfMul (a 2) 0x0d ^^^ gfMul (a 3) 0x09 ∧
      b 1 = gfMul (a 0) 0x09 ^^^ gfMul (a 1) 0x0e ^^^ gfMul (a 2) 0x0b ^^^ gfMul (a 3) 0x0d ∧
      b 2 = gfMul (a 0) 0x0d ^^^ gfMul (a 1) 0x09 ^^^ gfMul (a 2) 0x0e ^^^ gfMul (a 3) 0x0b ∧
      b 3 = gfMul (a 0) 0x0b ^^^ gfMul (a 1) 0x0d ^^^ gfMul (a 2) 0x09 ^^^ gfMul (a 3) 0x0e) ∧
    OnlyVAndPc s t d

/-- 41_aes.md R106: `xtime` and `GFmul`, the products by 1, 2 and 3, the examples; and, as of any multiplication in a field, it
is commutative and distributes over EOR. -/
def Obligations.GfMulLaws : Prop :=
  (∀ a : Byte, xtime a = (a <<< 1) ^^^ (if a.getLsbD 7 then 0x1B else 0)) ∧
  (∀ a b : Byte, gfMul a b =
    (List.range 8).foldl (fun acc i => acc ^^^ (if b.getLsbD i then Nat.repeat xtime i a else 0)) 0) ∧
  (∀ a : Byte, gfMul a 1 = a ∧ gfMul a 2 = xtime a ∧ gfMul a 3 = xtime a ^^^ a) ∧
  (∀ a b : Byte, gfMul a b = gfMul b a) ∧
  (∀ a b c : Byte, gfMul a (b ^^^ c) = gfMul a b ^^^ gfMul a c) ∧
  gfMul 0x57 0x83 = 0xC1 ∧ gfMul 0x57 0x13 = 0xFE ∧ gfMul 0x80 2 = 0x1B

/-- 41_aes.md R107: the S-box table is the multiplicative inverse in GF(2^8) (0 for 0) followed by the affine map, every
non-zero byte having an inverse; SubBytes applies it to each byte. -/
def Obligations.SboxIsInverseThenAffine : Prop :=
  sbox 0x00 = 0x63 ∧ sbox 0x01 = 0x7c ∧ sbox 0x53 = 0xed ∧ sbox 0xff = 0x16 ∧
  (∀ a : Byte, a ≠ 0 → ∃ b, gfMul a b = 1) ∧
  (∀ a b : Byte, gfMul a b = 1 → sbox a = b ^^^ rol b 1 ^^^ rol b 2 ^^^ rol b 3 ^^^ rol b 4 ^^^ 0x63) ∧
  ∀ (v : Quad) (i : Nat), i < 16 → byteOf (aesSubBytes v) i = sbox (byteOf v i)

/-- 41_aes.md R108: `INVSBOX` is the inverse permutation of `SBOX`, and InvSubBytes applies it to each byte, so that it undoes
SubBytes. -/
def Obligations.InvSubBytesInverts : Prop :=
  (∀ a : Byte, invSbox (sbox a) = a ∧ sbox (invSbox a) = a) ∧
  invSbox 0x00 = 0x52 ∧ invSbox 0x63 = 0x00 ∧ invSbox 0x16 = 0xff ∧
  (∀ (v : Quad) (i : Nat), i < 16 → byteOf (aesInvSubBytes v) i = invSbox (byteOf v i)) ∧
  ∀ v : Quad, aesInvSubBytes (aesSubBytes v) = v

/-- 41_aes.md R110 (and R109): row `r` is rotated right by `r` columns, byte `i` of the result is byte `ISR[i]`, and it undoes
ShiftRows; SubBytes and ShiftRows commute (R114). -/
def Obligations.InvShiftRowsInverts : Prop :=
  (∀ (v : Quad) (r c : Nat), r < 4 → c < 4 →
    byteOf (aesInvShiftRows v) (r + 4 * c) = byteOf v (r + 4 * ((c + 4 - r) % 4)) ∧
    byteOf (aesShiftRows v) (r + 4 * c) = byteOf v (r + 4 * ((c + r) % 4))) ∧
  (∀ (v : Quad) (i : Nat), i < 16 →
    byteOf (aesInvShiftRows v) i = byteOf v (Reference.invShiftRowsSource.getD i 0) ∧
    byteOf (aesShiftRows v) i = byteOf v (Reference.shiftRowsSource.getD i 0)) ∧
  (∀ v : Quad, aesInvShiftRows (aesShiftRows v) = v) ∧
  ∀ v : Quad, aesSubBytes (aesShiftRows v) = aesShiftRows (aesSubBytes v)

/-- InvMixColumns undoes MixColumns on every state, and the other way round (41_aes.md R112, R117); a state of sixteen equal
bytes passes both unchanged (R116, R117). -/
def Obligations.InvMixColumnsInverts : Prop :=
  (∀ v : Quad, aesInvMixColumns (aesMixColumns v) = v) ∧ (∀ v : Quad, aesMixColumns (aesInvMixColumns v) = v) ∧
  ∀ b : Byte, aesMixColumns (ofBytes (fun _ => b)) = ofBytes (fun _ => b) ∧
    aesInvMixColumns (ofBytes (fun _ => b)) = ofBytes (fun _ => b)

/-- AESD undoes AESE when the key register holds 0: run one after the other, the two instructions complete and leave `V[d]` as
it was (41_aes.md R115). -/
def Obligations.AesdUndoesAese : Prop :=
  ∀ (s : State) (d n : Nat), d < 32 → n < 32 → d ≠ n → s.readV n = 0 → s.CryptoReady → s.pc.toNat + 8 < 2 ^ 64 →
    ∃ t u, exec (.aese d n) s = .next t ∧ exec (.aesd d n) t = .next u ∧ u.readV d = s.readV d

/-! ## Polynomial multiply -/

/-- PMULL and PMULL2 complete: `V[d]` receives the carry-less product of the low halves, or of the high halves, of `V[n]` and
`V[m]`, bit by bit, and nothing else but `pc` changes (42_pmull.md R120 to R122). -/
def Obligations.PmullCompletes : Prop :=
  ∀ (s : State) (d n m : Nat), d < 32 → n < 32 → m < 32 → s.CryptoReady →
    (∃ t, exec (.pmull d n m) s = .next t ∧
      (∀ k, k < 128 → (t.readV d).getLsbD k = Reference.polyMulBit (halfOf (s.readV n) 0) (halfOf (s.readV m) 0) k) ∧
      OnlyVAndPc s t d) ∧
    (∃ t, exec (.pmull2 d n m) s = .next t ∧
      (∀ k, k < 128 → (t.readV d).getLsbD k = Reference.polyMulBit (halfOf (s.readV n) 1) (halfOf (s.readV m) 1) k) ∧
      OnlyVAndPc s t d)

/-- 42_pmull.md R120: the carry-less product bit by bit, commutative, distributing over EOR, 0 and 1 as for a product, bit 127
always 0; and a square spreads the bits (R121). -/
def Obligations.PolyMulLaws : Prop :=
  (∀ (a b : Word) (k : Nat), k < 128 → (polyMul64 a b).getLsbD k = Reference.polyMulBit a b k) ∧
  (∀ a b : Word, polyMul64 a b = polyMul64 b a) ∧
  (∀ a b c : Word, polyMul64 a (b ^^^ c) = polyMul64 a b ^^^ polyMul64 a c) ∧
  (∀ a : Word, polyMul64 a 0 = 0 ∧ polyMul64 a 1 = a.setWidth 128) ∧
  (∀ a b : Word, (polyMul64 a b).getLsbD 127 = false) ∧
  (∀ (a : Word) (i : Nat), i < 64 →
    (polyMul64 a a).getLsbD (2 * i) = a.getLsbD i ∧ (polyMul64 a a).getLsbD (2 * i + 1) = false)

/-! ## SHA-1 -/

/-- SHA1C, SHA1P and SHA1M complete: the lanes of the new `V[d]` are a, b, c, d after four SHA-1 rounds with f choose, parity
or majority, from the lanes of the old `V[d]`, `e` the low lane of `V[n]`, the schedule words of `V[m]`; and nothing else but
`pc` changes (43_sha1.md R125 to R128). -/
def Obligations.Sha1HashUpdatesComplete : Prop :=
  ∀ (s : State) (d n m : Nat), d < 32 → n < 32 → m < 32 → s.CryptoReady →
    let start := Reference.sha1Vars (s.readV d) (laneOf (s.readV n) 0)
    ∀ (i : Instr) (f : Lane → Lane → Lane → Lane),
      i = .sha1c d n m ∧ f = shaChoose ∨ i = .sha1p d n m ∧ f = shaParity ∨ i = .sha1m d n m ∧ f = shaMajority →
      ∃ t, exec i s = .next t ∧
        Reference.sha1Vars (t.readV d) (Reference.sha1FourRounds f (s.readV m) start).e =
          Reference.sha1FourRounds f (s.readV m) start ∧
        OnlyVAndPc s t d

/-- SHA1H completes: the low lane of `V[d]` is the low lane of `V[n]` rotated left by 30, the other three lanes are 0, and
nothing else but `pc` changes (43_sha1.md R129, 10_state.md R53). -/
def Obligations.Sha1hCompletes : Prop :=
  ∀ (s : State) (d n : Nat), d < 32 → n < 32 → s.CryptoReady → ∃ t, exec (.sha1h d n) s = .next t ∧
    laneOf (t.readV d) 0 = rol (laneOf (s.readV n) 0) 30 ∧
    (∀ e, 1 ≤ e → e < 4 → laneOf (t.readV d) e = 0) ∧ OnlyVAndPc s t d

/-- SHA1SU0 completes: with `W[t-16..t-5]` in `V[d]`, `V[n]`, `V[m]`, lane `i` of the result is
`W[t-14+i] EOR W[t-16+i] EOR W[t-8+i]`, and nothing else but `pc` changes (43_sha1.md R130). -/
def Obligations.Sha1su0Completes : Prop :=
  ∀ (s : State) (d n m : Nat), d < 32 → n < 32 → m < 32 → s.CryptoReady → ∃ t, exec (.sha1su0 d n m) s = .next t ∧
    (let w := Reference.scheduleWord [s.readV d, s.readV n, s.readV m]
     ∀ i, i < 4 → laneOf (t.readV d) i = w (2 + i) ^^^ w i ^^^ w (8 + i)) ∧
    OnlyVAndPc s t d

/-- SHA1SU1 completes: lanes 0 to 2 are `ROL(V[d] lane i EOR V[n] lane i+1, 1)`, lane 3 is `ROL(V[d] lane 3 EOR result lane 0, 1)`,
and nothing else but `pc` changes (43_sha1.md R131). -/
def Obligations.Sha1su1Completes : Prop :=
  ∀ (s : State) (d n : Nat), d < 32 → n < 32 → s.CryptoReady → ∃ t, exec (.sha1su1 d n) s = .next t ∧
    (∀ i, i < 3 → laneOf (t.readV d) i = rol (laneOf (s.readV d) i ^^^ laneOf (s.readV n) (i + 1)) 1) ∧
    laneOf (t.readV d) 3 = rol (laneOf (s.readV d) 3 ^^^ laneOf (t.readV d) 0) 1 ∧
    OnlyVAndPc s t d

/-- The two SHA-1 schedule updates compose into the schedule: run one after the other on `W[t-16..t-1]` in `V[d]`, `V[n]`,
`V[m]`, `V[k]`, they leave in `V[d]` the four words `W[t+i] = ROL(W[t+i-3] EOR W[t+i-8] EOR W[t+i-14] EOR W[t+i-16], 1)`
(43_sha1.md R130 to R132). -/
def Obligations.Sha1ScheduleComposes : Prop :=
  ∀ (s : State) (d n m k : Nat), d < 32 → n < 32 → m < 32 → k < 32 → d ≠ k → s.CryptoReady → s.pc.toNat + 8 < 2 ^ 64 →
    ∃ t u, exec (.sha1su0 d n m) s = .next t ∧ exec (.sha1su1 d k) t = .next u ∧
      (let w := Reference.scheduleWord [s.readV d, s.readV n, s.readV m, s.readV k, u.readV d]
       ∀ i, i < 4 → w (16 + i) = rol (w (13 + i) ^^^ w (8 + i) ^^^ w (2 + i) ^^^ w i) 1)

/-- SHA1H and then SHA1C, SHA1P or SHA1M are four SHA-1 rounds: with a, b, c, d in `V[q]` and e in the low lane of `V[e]`, they
leave a, b, c, d in `V[q]` and the new e in the low lane of `V[x]` (43_sha1.md R126, R129, R132). -/
def Obligations.Sha1FourRoundsOfTwoInstructions : Prop :=
  ∀ (s : State) (q e x m : Nat), q < 32 → e < 32 → x < 32 → m < 32 → x ≠ q → x ≠ e → x ≠ m → s.CryptoReady →
    s.pc.toNat + 8 < 2 ^ 64 →
    ∀ (i : Instr) (f : Lane → Lane → Lane → Lane),
      i = .sha1c q e m ∧ f = shaChoose ∨ i = .sha1p q e m ∧ f = shaParity ∨ i = .sha1m q e m ∧ f = shaMajority →
      ∃ t u, exec (.sha1h x q) s = .next t ∧ exec i t = .next u ∧
        Reference.sha1Vars (u.readV q) (laneOf (u.readV x) 0) =
          Reference.sha1FourRounds f (s.readV m) (Reference.sha1Vars (s.readV q) (laneOf (s.readV e) 0))

/-! ## SHA-256 -/

/-- SHA256H completes: the lanes of the new `V[d]` are a, b, c, d after four SHA-256 rounds from a to d in the old `V[d]` and e
to h in `V[n]`, with the schedule words of `V[m]`; and nothing else but `pc` changes (44_sha256.md R140, R141). -/
def Obligations.Sha256hCompletes : Prop :=
  ∀ (s : State) (d n m : Nat), d < 32 → n < 32 → m < 32 → s.CryptoReady → ∃ t, exec (.sha256h d n m) s = .next t ∧
    (let v := Reference.sha256FourRounds (s.readV m) (Reference.sha256Vars (s.readV d) (s.readV n))
     laneOf (t.readV d) 0 = v.a ∧ laneOf (t.readV d) 1 = v.b ∧ laneOf (t.readV d) 2 = v.c ∧ laneOf (t.readV d) 3 = v.d) ∧
    OnlyVAndPc s t d

/-- SHA256H2 completes: the lanes of the new `V[d]` are e, f, g, h after four SHA-256 rounds from a to d in `V[n]` and e to h in
the old `V[d]`, with the schedule words of `V[m]`; and nothing else but `pc` changes (44_sha256.md R140, R142). -/
def Obligations.Sha256h2Completes : Prop :=
  ∀ (s : State) (d n m : Nat), d < 32 → n < 32 → m < 32 → s.CryptoReady → ∃ t, exec (.sha256h2 d n m) s = .next t ∧
    (let v := Reference.sha256FourRounds (s.readV m) (Reference.sha256Vars (s.readV n) (s.readV d))
     laneOf (t.readV d) 0 = v.e ∧ laneOf (t.readV d) 1 = v.f ∧ laneOf (t.readV d) 2 = v.g ∧ laneOf (t.readV d) 3 = v.h) ∧
    OnlyVAndPc s t d

/-- SHA256SU0 completes: with `W[t-16..t-9]` in `V[d]`, `V[n]`, lane `i` of the result is `W[t-16+i] + sigma0(W[t-15+i])`, sigma0
being `ROR 7 EOR ROR 18 EOR LSR 3`, and nothing else but `pc` changes (44_sha256.md R143). -/
def Obligations.Sha256su0Completes : Prop :=
  ∀ (s : State) (d n : Nat), d < 32 → n < 32 → s.CryptoReady → ∃ t, exec (.sha256su0 d n) s = .next t ∧
    (let w := Reference.scheduleWord [s.readV d, s.readV n]
     ∀ i, i < 4 → laneOf (t.readV d) i = w i + (ror (w (i + 1)) 7 ^^^ ror (w (i + 1)) 18 ^^^ lsr (w (i + 1)) 3)) ∧
    OnlyVAndPc s t d

/-- SHA256SU1 completes: with `V[d]` the output of SHA256SU0 and `W[t-8..t-1]` in `V[n]`, `V[m]`, lane `i` of the result is
`sigma1(W[t-2+i]) + W[t-7+i] + V[d] lane i`, lanes 2 and 3 using the words produced in lanes 0 and 1; sigma1 is
`ROR 17 EOR ROR 19 EOR LSR 10`; and nothing else but `pc` changes (44_sha256.md R144). -/
def Obligations.Sha256su1Completes : Prop :=
  ∀ (s : State) (d n m : Nat), d < 32 → n < 32 → m < 32 → s.CryptoReady → ∃ t, exec (.sha256su1 d n m) s = .next t ∧
    (let w := Reference.scheduleWord [s.readV n, s.readV m, t.readV d]
     ∀ i, i < 4 → w (8 + i) =
       (ror (w (6 + i)) 17 ^^^ ror (w (6 + i)) 19 ^^^ lsr (w (6 + i)) 10) + w (1 + i) + laneOf (s.readV d) i) ∧
    OnlyVAndPc s t d

/-- The two SHA-256 schedule updates compose into the schedule: run one after the other on `W[t-16..t-1]` in `V[d]`, `V[n]`,
`V[m]`, `V[k]`, they leave in `V[d]` the four words
`W[t+i] = sigma1(W[t-2+i]) + W[t-7+i] + sigma0(W[t-15+i]) + W[t-16+i]` (44_sha256.md R143 to R145). -/
def Obligations.Sha256ScheduleComposes : Prop :=
  ∀ (s : State) (d n m k : Nat), d < 32 → n < 32 → m < 32 → k < 32 → d ≠ m → d ≠ k → s.CryptoReady →
    s.pc.toNat + 8 < 2 ^ 64 →
    ∃ t u, exec (.sha256su0 d n) s = .next t ∧ exec (.sha256su1 d m k) t = .next u ∧
      (let w := Reference.scheduleWord [s.readV d, s.readV n, s.readV m, s.readV k, u.readV d]
       ∀ i, i < 4 → w (16 + i) =
         (ror (w (14 + i)) 17 ^^^ ror (w (14 + i)) 19 ^^^ lsr (w (14 + i)) 10) + w (9 + i) +
           (ror (w (1 + i)) 7 ^^^ ror (w (1 + i)) 18 ^^^ lsr (w (1 + i)) 3) + w i)

/-- SHA256H and then SHA256H2 are four SHA-256 rounds: with a to d in `V[p]` and its copy `V[c]`, e to h in `V[q]` and the
schedule words in `V[m]`, they leave the eight working variables after four rounds in `V[p]` and `V[q]`
(44_sha256.md R141, R142, R145). -/
def Obligations.Sha256FourRoundsOfTwoInstructions : Prop :=
  ∀ (s : State) (p q c m : Nat), p < 32 → q < 32 → c < 32 → m < 32 → p ≠ q → p ≠ c → p ≠ m → s.readV c = s.readV p →
    s.CryptoReady → s.pc.toNat + 8 < 2 ^ 64 →
    ∃ t u, exec (.sha256h p q m) s = .next t ∧ exec (.sha256h2 q c m) t = .next u ∧
      Reference.sha256Vars (u.readV p) (u.readV q) =
        Reference.sha256FourRounds (s.readV m) (Reference.sha256Vars (s.readV p) (s.readV q))

/-! ## Exceptions and stops -/

/-- Where `crypto_enabled` is false every cryptographic instruction raises Undefined, at every Exception level and whatever the
premise on Advanced SIMD says (60_exceptions.md R150, 30_encoding.md R85): the run ends in the fault that names the cause, the
instruction's address and its word (R159), or the exception is taken (R156 to R158). That a launch says which is the model's
choice (notes/assumptions/1.md). -/
def Obligations.DisabledCryptoRaisesUndefined : Prop :=
  ∀ (s : State) (i : Instr), i.isCrypto = true → (s.params.cryptoPresent = false ∨ s.params.cryptodisableAtReset = true) →
    (s.params.undefinedOutcome = .endsRun → exec i s = .fault (.undefined .cryptoDisabled s.pc (encode i))) ∧
    (s.params.undefinedOutcome = .entersHandler → exec i s = .next (takeException undefinedSyndrome s))

/-- 60_exceptions.md R154: the two causes of Undefined are all the faults an instruction has; each belongs to its own
instructions, so they never compete (R162). The recorded word is the instruction's encoding (notes/assumptions/18.md). -/
def Obligations.OnlyTwoUndefinedCauses : Prop :=
  ∀ (s : State) (i : Instr) (r : Fault), exec i s = .fault r →
    (r = .undefined .cryptoDisabled s.pc (encode i) ∧ i.isCrypto = true ∧ s.cryptoEnabled = false) ∨
    (r = .undefined .el0IdRead s.pc (encode i) ∧ i.isCrypto = false ∧ s.currentEl = .el0)

/-- The fault outcome of a step records the faulting `pc` and the word fetched there (60_exceptions.md R153, R159). -/
def Obligations.FaultRecordsPcAndWord : Prop :=
  ∀ (s : State) (info : UndefinedInfo) (pc : Word) (w : InstrWord), step s = .fault (.undefined info pc w) →
    pc = s.pc ∧ s.mem.fetchWord s.pc = some w

/-- What a false premise and the top of the address space lead to: a cryptographic instruction is refused where Advanced SIMD
is trapped, an ID register read where such reads are trapped (above EL0), and any instruction that would otherwise complete
where `pc + 4` would exceed 2^64 - 1 (60_exceptions.md R150, R154; 40_id_register_read.md R100; 10_state.md R24). -/
def Obligations.FalsePremisesRefused : Prop :=
  ∀ (s : State) (i : Instr),
    (i.isCrypto = true → s.cryptoEnabled = true → s.params.simdAccessEnabled = false →
      exec i s = .refused .simdTrapUnmodelled) ∧
    (i.isCrypto = false → s.currentEl ≠ .el0 → s.params.idReadsNotTrapped = false →
      exec i s = .refused .idReadTrapUnmodelled) ∧
    (i.isCrypto = true → s.cryptoEnabled = true → s.params.simdAccessEnabled = true → s.pc.toNat + 4 ≥ 2 ^ 64 →
      exec i s = .refused .pcWrap) ∧
    (i.isCrypto = false → s.currentEl ≠ .el0 → s.params.idReadsNotTrapped = true → s.pc.toNat + 4 ≥ 2 ^ 64 →
      exec i s = .refused .pcWrap)

/-- Taking the UNDEFINED exception: from EL0 to EL1, or to EL2 under HCR_EL2.TGE, else to the current level; ELR_ELx, SPSR_ELx
and ESR_ELx of the target are the faulting address, the process state and the "Unknown reason" syndrome; D, A, I, F are set,
the level's own stack pointer is selected and the flags stay; and control goes to VBAR_ELx plus 0x000, 0x200 or 0x400
(60_exceptions.md R152, R153, R156 to R158, which the spec marks informative and not modelled: that the machine has this entry is
the model's choice, notes/assumptions/1.md). Also the model's: the handler's address is taken modulo 2^64
(notes/assumptions/25.md), and an ISS of 25 bits (notes/assumptions/14.md). -/
def Obligations.UndefinedEntry : Prop :=
  ∀ (s : State) (l : HandlerLevel),
    (s.currentEl = .el0 ∧ s.params.hcrTge = false ∧ l = .el1 ∨ s.currentEl = .el0 ∧ s.params.hcrTge = true ∧ l = .el2 ∨
      s.currentEl = l.toEL) →
    let t := takeException undefinedSyndrome s
    (t.bank l).elr = s.pc ∧ (t.bank l).spsr = s.pstate ∧ (t.bank l).esr = ⟨0, true, 0⟩ ∧ (t.bank l).vbar = (s.bank l).vbar ∧
    t.currentEl = l.toEL ∧ t.pstate.spSel = true ∧
    t.pstate.d = true ∧ t.pstate.a = true ∧ t.pstate.i = true ∧ t.pstate.f = true ∧ t.nzcv = s.nzcv ∧
    (s.currentEl = .el0 → t.pc = (s.bank l).vbar + 0x400) ∧
    (s.currentEl ≠ .el0 → s.pstate.spSel = false → t.pc = (s.bank l).vbar) ∧
    (s.currentEl ≠ .el0 → s.pstate.spSel = true → t.pc = (s.bank l).vbar + 0x200)

/-- What taking an exception leaves alone: the X and V registers, the stack pointers, the floating-point registers, every byte
of memory, the launch parameters, and the exception registers of the other levels (60_exceptions.md R157, which the spec marks
informative and not modelled). That the machine has this entry is the model's choice (notes/assumptions/1.md), and so is the
state beyond the spec's minimal machine that it leaves alone (notes/assumptions/13.md). -/
def Obligations.EntryFrame : Prop :=
  ∀ (s : State) (e : Syndrome),
    let t := takeException e s
    (∀ r, t.readX r = s.readX r) ∧ (∀ j, t.readV j = s.readV j) ∧ t.sp = s.sp ∧ t.fpcr = s.fpcr ∧ t.fpsr = s.fpsr ∧
    t.params = s.params ∧ (∀ a, t.mem.readByte a = s.mem.readByte a) ∧ (∀ l, l.toEL ≠ t.currentEl → t.bank l = s.bank l)

/-- The return from the handler restores `pc` and the process state: right after an exception is taken, it answers a state at
the faulting instruction with the process state it had (60_exceptions.md R157, R160). Of the state before the exception all else
stands too, but for the target level's ELR, SPSR, ESR and fault address register, which keep what the entry wrote, and the count
of free values. Entry and return are in the machine by the model's choice (notes/assumptions/1.md, 24.md): the spec marks both
informative and not modelled, and no instruction in scope calls the return. -/
def Obligations.ReturnUndoesEntry : Prop :=
  ∀ (s : State) (e : Syndrome), ∃ t, exceptionReturn (takeException e s) = .next t ∧ t.pc = s.pc ∧ t.pstate = s.pstate ∧
    t.x = s.x ∧ t.v = s.v ∧ t.mem = s.mem ∧ t.params = s.params ∧ t.sp = s.sp ∧ t.fpcr = s.fpcr ∧ t.fpsr = s.fpsr ∧
    t.freeCount = s.freeCount + 1 ∧
    (∀ l, l ≠ s.exceptionTarget → t.bank l = s.bank l) ∧
    t.bank s.exceptionTarget = (takeException e s).bank s.exceptionTarget ∧
    (t.bank s.exceptionTarget).vbar = (s.bank s.exceptionTarget).vbar

/-- No step lowers the Exception level; and a step either keeps the whole process state, the flags and the level among it, and
every exception register, and moves `pc` on by 4, or it takes the UNDEFINED exception, in a launch that has the exception taken
(10_state.md R24, R25, R58; 60_exceptions.md R166; that a launch says which is the model's choice, notes/assumptions/1.md). -/
def Obligations.StepsKeepProcessState : Prop :=
  ∀ s t : State, step s = .next t →
    s.currentEl.rank ≤ t.currentEl.rank ∧
    ((t.pstate = s.pstate ∧ t.el1 = s.el1 ∧ t.el2 = s.el2 ∧ t.el3 = s.el3 ∧ t.pc = s.pc + 4) ∨
      (s.params.undefinedOutcome = .entersHandler ∧ t = takeException undefinedSyndrome s))

/-! ## Frames -/

/-- The frame of the sixteen cryptographic instructions: where one answers a next state with the extension enabled, only its
destination V register and `pc` have changed (10_state.md R21, R25, R54). -/
def Obligations.CryptoFrame : Prop :=
  ∀ (s t : State) (i : Instr) (d : Nat), vDest i = some d → s.cryptoEnabled = true → exec i s = .next t → OnlyVAndPc s t d

/-- The frame of the two ID register reads: where one answers a next state above EL0, only its destination X register (none for
XZR) and `pc` have changed (10_state.md R21, R25, R54; 40_id_register_read.md R95, R102). -/
def Obligations.IdReadFrame : Prop :=
  ∀ (s t : State) (i : Instr) (r : Nat), xDest i = some r → s.currentEl ≠ .el0 → exec i s = .next t →
    OnlyXAndPc s t r ∧ (r = 31 → ∀ j, t.readX j = s.readX j)

/-- No instruction reads an X register (10_state.md R21): a cryptographic instruction run from a state with any other X
registers does the same and leaves those X registers as they are. -/
def Obligations.CryptoIgnoresXRegisters : Prop :=
  ∀ (s : State) (i : Instr) (x : Vector Word 31), i.isCrypto = true →
    exec i { s with x := x } = onNext (fun t => { t with x := x })
      (exec i s)

/-! ## Memory -/

/-- A word written to memory in canonical form is read back by a fetch at its address, every byte outside its four is as
before, and the form is kept (00_scope.md R14, 20_memory.md R63). -/
def Obligations.WrittenWordIsFetched : Prop :=
  ∀ (m : Memory) (a : Word) (w : InstrWord), m.wf = true → a.toNat + 4 ≤ 2 ^ 64 →
    (m.write a.toNat 4 w).fetchWord a = some w ∧ (m.write a.toNat 4 w).wf = true ∧
    ∀ k, (k < a.toNat ∨ a.toNat + 4 ≤ k) → (m.write a.toNat 4 w).readByte k = m.readByte k

/-- The word of a well-formed instruction placed where the step fetches is the instruction the next step runs, from every state
in canonical form whose program counter leaves room for it (the model's own `withFetchWord`, which stands for the loading of a
program, notes/assumptions/8.md). -/
def Obligations.PlacedInstructionRuns : Prop :=
  ∀ (s : State) (i : Instr), s.mem.wf = true → i.WellFormed = true →
    step (s.withFetchWord 32 (encode i).toNat) = exec i (s.withFetchWord 32 (encode i).toNat)

/-! ## Reset and launch -/

/-- 70_reset_and_hazards.md R180: reset samples CRYPTODISABLE: the core holds the sampled level, `crypto_enabled` becomes
`crypto_present` and not that level, no step alters either, and the next reset's level overrides it; both ID registers follow
(R182; 10_state.md R40, R50), and the cores of a cluster that reset together hold the same level (60_exceptions.md R169). That
the reserved bits of the two registers are zero is a choice: the spec's decision D11, which the model follows
(notes/assumptions/16.md). That two resets leave the whole state as one does rests on the model's choice that a reset is the
sampling alone, where R182 leaves every other value unspecified (notes/assumptions/27.md). -/
def Obligations.ResetSamplesCryptodisable : Prop :=
  (∀ (s : State) (asserted : Bool),
    (s.sampleCryptodisable asserted).cryptoEnabled = (s.params.cryptoPresent && !asserted) ∧
    (s.sampleCryptodisable asserted).idAa64isar0 =
      (if s.params.cryptoPresent && !asserted then 0x0000100010211120#64 else 0x0000100010210000#64) ∧
    (s.sampleCryptodisable asserted).idIsar5 =
      (if s.params.cryptoPresent && !asserted then 0x01011121#32 else 0x01010001#32) ∧
    (s.sampleCryptodisable asserted).params.cryptodisableAtReset = asserted ∧
    (∀ again, (s.sampleCryptodisable asserted).sampleCryptodisable again = s.sampleCryptodisable again) ∧
    ∀ t, step (s.sampleCryptodisable asserted) = .next t →
      t.params.cryptodisableAtReset = asserted ∧ t.cryptoEnabled = (s.params.cryptoPresent && !asserted)) ∧
  ∀ (cores : List State) (asserted : Bool), (clusterReset asserted cores).length = cores.length ∧
    ∀ s ∈ clusterReset asserted cores, s.params.cryptodisableAtReset = asserted

/-- A run starts as its launch record says (70_reset_and_hazards.md R187): with its registers, level and parameters; where the
text is a map as 20_memory.md R61 says, each word is fetched at its address, and no word at an aligned address the text does not
name; and a record with an aligned `pc` starts in a state that meets the invariant. The last rests on the vector bases, which no
record names and which are zero after reset by the model's choice (notes/assumptions/6.md). -/
def Obligations.LaunchMeetsInvariant : Prop :=
  ∀ l : Launch, l.start.x = l.x ∧ l.start.v = l.v ∧ l.start.pc = l.pc ∧ l.start.currentEl = l.currentEl ∧
    l.start.params = l.params ∧ l.start.mem = textMemory l.text ∧
    (l.TextIsMap →
      (∀ e ∈ l.text, l.start.mem.fetchWord e.1 = some e.2) ∧
      ∀ a : Word, pcAligned a = true → (∀ e ∈ l.text, e.1 ≠ a) → l.start.mem.fetchWord a = none) ∧
    (pcAligned l.pc = true → l.start.Inv)

/-! ## Invariants and runs -/

/-- The state after reset meets the invariant. -/
def Obligations.ResetMeetsInvariant : Prop := State.reset.Inv

/-- Every step keeps the invariant: the program counter stays aligned (20_memory.md R65), the memory stays in canonical form,
the vector bases stay aligned (asked of them by the model, whose VBAR_ELx is a plain register, notes/assumptions/25.md; a step
that takes the exception is there by notes/assumptions/1.md). -/
def Obligations.StepKeepsInvariant : Prop := ∀ s t : State, s.Inv → step s = .next t → t.Inv

/-- No step changes the program text (20_memory.md R61) or a launch parameter (00_scope.md R8), the sampled level of
CRYPTODISABLE among them (70_reset_and_hazards.md R180, R189), and so none changes `crypto_enabled` (10_state.md R56). -/
def Obligations.StepKeepsTextAndParameters : Prop :=
  ∀ s t : State, step s = .next t → t.mem = s.mem ∧ t.params = s.params ∧ t.cryptoEnabled = s.cryptoEnabled

/-- With the extension enabled, above EL0, Undefined is never raised (60_exceptions.md R159), in either of its two forms (which
of them a launch has is the model's choice, notes/assumptions/1.md): no step ends in the fault, and every step that answers a next
state runs an instruction to its end, with `pc` four further on and the process state and every exception register as they were;
and it leaves the extension enabled and the level above EL0, so the same holds all along a run. -/
def Obligations.EnabledRunNeverUndefined : Prop :=
  (∀ s : State, s.cryptoEnabled = true → s.currentEl ≠ .el0 →
    (∀ info pc w, step s ≠ .fault (.undefined info pc w)) ∧
    ∀ t, step s = .next t →
      t.cryptoEnabled = true ∧ t.currentEl ≠ .el0 ∧ t.pc = s.pc + 4 ∧ t.pstate = s.pstate ∧
      t.el1 = s.el1 ∧ t.el2 = s.el2 ∧ t.el3 = s.el3) ∧
  ∀ s t : State, s.cryptoEnabled = true → s.currentEl ≠ .el0 → Reaches s t →
    t.cryptoEnabled = true ∧ t.pstate = s.pstate ∧ t.el1 = s.el1 ∧ t.el2 = s.el2 ∧ t.el3 = s.el3 ∧
    ∀ info pc w, step t ≠ .fault (.undefined info pc w)

/-- 70_reset_and_hazards.md R188: where the UNDEFINED exception ends the run (R159; the launch's choice of the two outcomes is
the model's, notes/assumptions/1.md), a run of `k` instructions from `pc0` with
`end_pc = pc0 + 4k` either ends successfully after exactly `k` steps, and not before, or stops earlier in a fault or a refusal
that is not the run's end. That the end of a run answers the refusal `runEnded` is the model's choice
(notes/assumptions/12.md). -/
def Obligations.StraightLineRun : Prop :=
  ∀ (k : Nat) (s : State), s.params.undefinedOutcome = .endsRun → pcAligned s.pc = true → s.pc.toNat + 4 * k < 2 ^ 64 →
    s.params.endPc = s.pc + BitVec.ofNat 64 (4 * k) →
    (∃ t : State, Sys2Proof.core.run k s = .next t ∧ RunsTo s t ∧ step t = .refused .runEnded ∧
      ∀ (j : Nat) (u : State), j < k → Sys2Proof.core.run j s = .next u → u.pc ≠ s.params.endPc) ∨
    (∃ r : Fault, Sys2Proof.core.run k s = .fault r) ∨
    (∃ r : Refusal, Sys2Proof.core.run k s = .refused r ∧ r ≠ .runEnded)
end

