-- ==== Sys2Proof/Laws/Encoding.lean ====
section
/-! SUPPORT. The bits of an encoded word, format by format, and the fields a decoder reads back from it. -/

namespace Sys2Proof

/-- A register number 0 to 31 stands unchanged in its field (30_encoding.md R81). -/
theorem regField_toNat {r : Nat} (h : r < 32) : (regField r).toNat = r := by
  simp [regField]
  omega

/-- The bits of a word of the format, as bits of the concatenation of its fields. -/
theorem getLsbD_encodeMrs (op1 : BitVec 3) (crn crm : BitVec 4) (op2 : BitVec 3) (t : Nat) (i : Nat) : (encodeMrs op1 crn crm op2 t).getLsbD i =
    @BitVec.getLsbD (10 + 1 + 1 + 1 + 3 + 4 + 4 + 3 + 5) (0b1101010100#10 ++ 1#1 ++ 1#1 ++ 1#1 ++ op1 ++ crn ++ crm ++ op2 ++ regField t) i := rfl

/-- The bits of a word of the format, as bits of the concatenation of its fields. -/
theorem getLsbD_encodeCryptoAes (opcode : BitVec 5) (d n : Nat) (i : Nat) : (encodeCryptoAes opcode d n).getLsbD i =
    @BitVec.getLsbD (8 + 2 + 5 + 5 + 2 + 5 + 5) (0b01001110#8 ++ 0b00#2 ++ 0b10100#5 ++ opcode ++ 0b10#2 ++ regField n ++ regField d) i := rfl

/-- The bits of a word of the format, as bits of the concatenation of its fields. -/
theorem getLsbD_encodeCryptoSha2 (opcode : BitVec 5) (d n : Nat) (i : Nat) : (encodeCryptoSha2 opcode d n).getLsbD i =
    @BitVec.getLsbD (8 + 2 + 5 + 5 + 2 + 5 + 5) (0b01011110#8 ++ 0b00#2 ++ 0b10100#5 ++ opcode ++ 0b10#2 ++ regField n ++ regField d) i := rfl

/-- The bits of a word of the format, as bits of the concatenation of its fields. -/
theorem getLsbD_encodeCryptoSha3 (opcode : BitVec 3) (d n m : Nat) (i : Nat) : (encodeCryptoSha3 opcode d n m).getLsbD i =
    @BitVec.getLsbD (8 + 2 + 1 + 5 + 1 + 3 + 2 + 5 + 5) (0b01011110#8 ++ 0b00#2 ++ 0#1 ++ regField m ++ 0#1 ++ opcode ++ 0b00#2 ++ regField n ++ regField d) i := rfl

/-- The bits of a word of the format, as bits of the concatenation of its fields. -/
theorem getLsbD_encodePmull (q : BitVec 1) (d n m : Nat) (i : Nat) : (encodePmull q d n m).getLsbD i =
    @BitVec.getLsbD (1 + 1 + 1 + 5 + 2 + 1 + 5 + 4 + 2 + 5 + 5) (0#1 ++ q ++ 0#1 ++ 0b01110#5 ++ 0b11#2 ++ 1#1 ++ regField m ++ 0b1110#4 ++ 0b00#2 ++ regField n ++ regField d) i := rfl

/-- The decoder reads `t` back from its field. -/
theorem fieldRd_encodeMrs (op1 : BitVec 3) (crn crm : BitVec 4) (op2 : BitVec 3) (t : Nat) (h : t < 32) : fieldRd (encodeMrs op1 crn crm op2 t) = t := by
  have hf : (encodeMrs op1 crn crm op2 t).extractLsb' 0 5 = regField t := by
    apply BitVec.eq_of_getLsbD_eq
    intro i hi
    rw [BitVec.getLsbD_extractLsb', getLsbD_encodeMrs]
    simp only [BitVec.getLsbD_append]
    interval_cases i <;> rfl
  rw [fieldRd, hf, regField_toNat h]

/-- The decoder reads `d` back from its field. -/
theorem fieldRd_encodeCryptoAes (opcode : BitVec 5) (d n : Nat) (h : d < 32) : fieldRd (encodeCryptoAes opcode d n) = d := by
  have hf : (encodeCryptoAes opcode d n).extractLsb' 0 5 = regField d := by
    apply BitVec.eq_of_getLsbD_eq
    intro i hi
    rw [BitVec.getLsbD_extractLsb', getLsbD_encodeCryptoAes]
    simp only [BitVec.getLsbD_append]
    interval_cases i <;> rfl
  rw [fieldRd, hf, regField_toNat h]

/-- The decoder reads `n` back from its field. -/
theorem fieldRn_encodeCryptoAes (opcode : BitVec 5) (d n : Nat) (h : n < 32) : fieldRn (encodeCryptoAes opcode d n) = n := by
  have hf : (encodeCryptoAes opcode d n).extractLsb' 5 5 = regField n := by
    apply BitVec.eq_of_getLsbD_eq
    intro i hi
    rw [BitVec.getLsbD_extractLsb', getLsbD_encodeCryptoAes]
    simp only [BitVec.getLsbD_append]
    interval_cases i <;> rfl
  rw [fieldRn, hf, regField_toNat h]

/-- The decoder reads `d` back from its field. -/
theorem fieldRd_encodeCryptoSha2 (opcode : BitVec 5) (d n : Nat) (h : d < 32) : fieldRd (encodeCryptoSha2 opcode d n) = d := by
  have hf : (encodeCryptoSha2 opcode d n).extractLsb' 0 5 = regField d := by
    apply BitVec.eq_of_getLsbD_eq
    intro i hi
    rw [BitVec.getLsbD_extractLsb', getLsbD_encodeCryptoSha2]
    simp only [BitVec.getLsbD_append]
    interval_cases i <;> rfl
  rw [fieldRd, hf, regField_toNat h]

/-- The decoder reads `n` back from its field. -/
theorem fieldRn_encodeCryptoSha2 (opcode : BitVec 5) (d n : Nat) (h : n < 32) : fieldRn (encodeCryptoSha2 opcode d n) = n := by
  have hf : (encodeCryptoSha2 opcode d n).extractLsb' 5 5 = regField n := by
    apply BitVec.eq_of_getLsbD_eq
    intro i hi
    rw [BitVec.getLsbD_extractLsb', getLsbD_encodeCryptoSha2]
    simp only [BitVec.getLsbD_append]
    interval_cases i <;> rfl
  rw [fieldRn, hf, regField_toNat h]

/-- The decoder reads `d` back from its field. -/
theorem fieldRd_encodeCryptoSha3 (opcode : BitVec 3) (d n m : Nat) (h : d < 32) : fieldRd (encodeCryptoSha3 opcode d n m) = d := by
  have hf : (encodeCryptoSha3 opcode d n m).extractLsb' 0 5 = regField d := by
    apply BitVec.eq_of_getLsbD_eq
    intro i hi
    rw [BitVec.getLsbD_extractLsb', getLsbD_encodeCryptoSha3]
    simp only [BitVec.getLsbD_append]
    interval_cases i <;> rfl
  rw [fieldRd, hf, regField_toNat h]

/-- The decoder reads `n` back from its field. -/
theorem fieldRn_encodeCryptoSha3 (opcode : BitVec 3) (d n m : Nat) (h : n < 32) : fieldRn (encodeCryptoSha3 opcode d n m) = n := by
  have hf : (encodeCryptoSha3 opcode d n m).extractLsb' 5 5 = regField n := by
    apply BitVec.eq_of_getLsbD_eq
    intro i hi
    rw [BitVec.getLsbD_extractLsb', getLsbD_encodeCryptoSha3]
    simp only [BitVec.getLsbD_append]
    interval_cases i <;> rfl
  rw [fieldRn, hf, regField_toNat h]

/-- The decoder reads `d` back from its field. -/
theorem fieldRd_encodePmull (q : BitVec 1) (d n m : Nat) (h : d < 32) : fieldRd (encodePmull q d n m) = d := by
  have hf : (encodePmull q d n m).extractLsb' 0 5 = regField d := by
    apply BitVec.eq_of_getLsbD_eq
    intro i hi
    rw [BitVec.getLsbD_extractLsb', getLsbD_encodePmull]
    simp only [BitVec.getLsbD_append]
    interval_cases i <;> rfl
  rw [fieldRd, hf, regField_toNat h]

/-- The decoder reads `n` back from its field. -/
theorem fieldRn_encodePmull (q : BitVec 1) (d n m : Nat) (h : n < 32) : fieldRn (encodePmull q d n m) = n := by
  have hf : (encodePmull q d n m).extractLsb' 5 5 = regField n := by
    apply BitVec.eq_of_getLsbD_eq
    intro i hi
    rw [BitVec.getLsbD_extractLsb', getLsbD_encodePmull]
    simp only [BitVec.getLsbD_append]
    interval_cases i <;> rfl
  rw [fieldRn, hf, regField_toNat h]

/-- The decoder reads `m` back from its field. -/
theorem fieldRm_encodeCryptoSha3 (opcode : BitVec 3) (d n m : Nat) (h : m < 32) : fieldRm (encodeCryptoSha3 opcode d n m) = m := by
  have hf : (encodeCryptoSha3 opcode d n m).extractLsb' 16 5 = regField m := by
    apply BitVec.eq_of_getLsbD_eq
    intro i hi
    rw [BitVec.getLsbD_extractLsb', getLsbD_encodeCryptoSha3]
    simp only [BitVec.getLsbD_append]
    interval_cases i <;> rfl
  rw [fieldRm, hf, regField_toNat h]

/-- The decoder reads `m` back from its field. -/
theorem fieldRm_encodePmull (q : BitVec 1) (d n m : Nat) (h : m < 32) : fieldRm (encodePmull q d n m) = m := by
  have hf : (encodePmull q d n m).extractLsb' 16 5 = regField m := by
    apply BitVec.eq_of_getLsbD_eq
    intro i hi
    rw [BitVec.getLsbD_extractLsb', getLsbD_encodePmull]
    simp only [BitVec.getLsbD_append]
    interval_cases i <;> rfl
  rw [fieldRm, hf, regField_toNat h]

end Sys2Proof
end

