-- ==== Sys2Proof/Laws/State.lean ====
section
/-! SUPPORT. One lemma per field per update of the state, so that no later proof unfolds a record update. -/

namespace Sys2Proof.Machine

/-! ## A write of an X register -/

@[simp] theorem State.writeX_v (s : State) (t : Nat) (val : Word) : (s.writeX t val).v = s.v := by
  unfold State.writeX; split <;> rfl

@[simp] theorem State.writeX_pc (s : State) (t : Nat) (val : Word) : (s.writeX t val).pc = s.pc := by
  unfold State.writeX; split <;> rfl

@[simp] theorem State.writeX_pstate (s : State) (t : Nat) (val : Word) : (s.writeX t val).pstate = s.pstate := by
  unfold State.writeX; split <;> rfl

@[simp] theorem State.writeX_sp (s : State) (t : Nat) (val : Word) : (s.writeX t val).sp = s.sp := by
  unfold State.writeX; split <;> rfl

@[simp] theorem State.writeX_fpcr (s : State) (t : Nat) (val : Word) : (s.writeX t val).fpcr = s.fpcr := by
  unfold State.writeX; split <;> rfl

@[simp] theorem State.writeX_fpsr (s : State) (t : Nat) (val : Word) : (s.writeX t val).fpsr = s.fpsr := by
  unfold State.writeX; split <;> rfl

@[simp] theorem State.writeX_el1 (s : State) (t : Nat) (val : Word) : (s.writeX t val).el1 = s.el1 := by
  unfold State.writeX; split <;> rfl

@[simp] theorem State.writeX_el2 (s : State) (t : Nat) (val : Word) : (s.writeX t val).el2 = s.el2 := by
  unfold State.writeX; split <;> rfl

@[simp] theorem State.writeX_el3 (s : State) (t : Nat) (val : Word) : (s.writeX t val).el3 = s.el3 := by
  unfold State.writeX; split <;> rfl

@[simp] theorem State.writeX_mem (s : State) (t : Nat) (val : Word) : (s.writeX t val).mem = s.mem := by
  unfold State.writeX; split <;> rfl

@[simp] theorem State.writeX_params (s : State) (t : Nat) (val : Word) : (s.writeX t val).params = s.params := by
  unfold State.writeX; split <;> rfl

@[simp] theorem State.writeX_freeCount (s : State) (t : Nat) (val : Word) : (s.writeX t val).freeCount = s.freeCount := by
  unfold State.writeX; split <;> rfl

/-! ## A write of a V register -/

@[simp] theorem State.writeV_x (s : State) (i : Nat) (val : Quad) : (s.writeV i val).x = s.x := by
  unfold State.writeV; split <;> rfl

@[simp] theorem State.writeV_pc (s : State) (i : Nat) (val : Quad) : (s.writeV i val).pc = s.pc := by
  unfold State.writeV; split <;> rfl

@[simp] theorem State.writeV_pstate (s : State) (i : Nat) (val : Quad) : (s.writeV i val).pstate = s.pstate := by
  unfold State.writeV; split <;> rfl

@[simp] theorem State.writeV_sp (s : State) (i : Nat) (val : Quad) : (s.writeV i val).sp = s.sp := by
  unfold State.writeV; split <;> rfl

@[simp] theorem State.writeV_fpcr (s : State) (i : Nat) (val : Quad) : (s.writeV i val).fpcr = s.fpcr := by
  unfold State.writeV; split <;> rfl

@[simp] theorem State.writeV_fpsr (s : State) (i : Nat) (val : Quad) : (s.writeV i val).fpsr = s.fpsr := by
  unfold State.writeV; split <;> rfl

@[simp] theorem State.writeV_el1 (s : State) (i : Nat) (val : Quad) : (s.writeV i val).el1 = s.el1 := by
  unfold State.writeV; split <;> rfl

@[simp] theorem State.writeV_el2 (s : State) (i : Nat) (val : Quad) : (s.writeV i val).el2 = s.el2 := by
  unfold State.writeV; split <;> rfl

@[simp] theorem State.writeV_el3 (s : State) (i : Nat) (val : Quad) : (s.writeV i val).el3 = s.el3 := by
  unfold State.writeV; split <;> rfl

@[simp] theorem State.writeV_mem (s : State) (i : Nat) (val : Quad) : (s.writeV i val).mem = s.mem := by
  unfold State.writeV; split <;> rfl

@[simp] theorem State.writeV_params (s : State) (i : Nat) (val : Quad) : (s.writeV i val).params = s.params := by
  unfold State.writeV; split <;> rfl

@[simp] theorem State.writeV_freeCount (s : State) (i : Nat) (val : Quad) : (s.writeV i val).freeCount = s.freeCount := by
  unfold State.writeV; split <;> rfl

/-! ## A write of a bank of exception registers -/

@[simp] theorem State.setBank_x (s : State) (l : HandlerLevel) (b : ExceptionBank) : (s.setBank l b).x = s.x := by
  cases l <;> rfl

@[simp] theorem State.setBank_v (s : State) (l : HandlerLevel) (b : ExceptionBank) : (s.setBank l b).v = s.v := by
  cases l <;> rfl

@[simp] theorem State.setBank_pc (s : State) (l : HandlerLevel) (b : ExceptionBank) : (s.setBank l b).pc = s.pc := by
  cases l <;> rfl

@[simp] theorem State.setBank_pstate (s : State) (l : HandlerLevel) (b : ExceptionBank) : (s.setBank l b).pstate = s.pstate := by
  cases l <;> rfl

@[simp] theorem State.setBank_sp (s : State) (l : HandlerLevel) (b : ExceptionBank) : (s.setBank l b).sp = s.sp := by
  cases l <;> rfl

@[simp] theorem State.setBank_fpcr (s : State) (l : HandlerLevel) (b : ExceptionBank) : (s.setBank l b).fpcr = s.fpcr := by
  cases l <;> rfl

@[simp] theorem State.setBank_fpsr (s : State) (l : HandlerLevel) (b : ExceptionBank) : (s.setBank l b).fpsr = s.fpsr := by
  cases l <;> rfl

@[simp] theorem State.setBank_mem (s : State) (l : HandlerLevel) (b : ExceptionBank) : (s.setBank l b).mem = s.mem := by
  cases l <;> rfl

@[simp] theorem State.setBank_params (s : State) (l : HandlerLevel) (b : ExceptionBank) : (s.setBank l b).params = s.params := by
  cases l <;> rfl

@[simp] theorem State.setBank_freeCount (s : State) (l : HandlerLevel) (b : ExceptionBank) : (s.setBank l b).freeCount = s.freeCount := by
  cases l <;> rfl

/-! ## Taking an exception -/

@[simp] theorem takeException_x (e : Syndrome) (s : State) : (takeException e s).x = s.x := by
  unfold takeException; simp

@[simp] theorem takeException_v (e : Syndrome) (s : State) : (takeException e s).v = s.v := by
  unfold takeException; simp

@[simp] theorem takeException_sp (e : Syndrome) (s : State) : (takeException e s).sp = s.sp := by
  unfold takeException; simp

@[simp] theorem takeException_fpcr (e : Syndrome) (s : State) : (takeException e s).fpcr = s.fpcr := by
  unfold takeException; simp

@[simp] theorem takeException_fpsr (e : Syndrome) (s : State) : (takeException e s).fpsr = s.fpsr := by
  unfold takeException; simp

@[simp] theorem takeException_mem (e : Syndrome) (s : State) : (takeException e s).mem = s.mem := by
  unfold takeException; simp

@[simp] theorem takeException_params (e : Syndrome) (s : State) : (takeException e s).params = s.params := by
  unfold takeException; simp

@[simp] theorem takeException_pc (e : Syndrome) (s : State) :
    (takeException e s).pc = (s.bank s.exceptionTarget).vbar + s.vectorOffset s.exceptionTarget := rfl

@[simp] theorem takeException_pstate (e : Syndrome) (s : State) :
    (takeException e s).pstate = s.pstate.onEntry s.exceptionTarget := rfl

@[simp] theorem takeException_freeCount (e : Syndrome) (s : State) : (takeException e s).freeCount = s.freeCount + 1 := rfl

/-! ## Sampling CRYPTODISABLE -/

@[simp] theorem State.sampleCryptodisable_x (s : State) (a : Bool) : (s.sampleCryptodisable a).x = s.x := rfl

@[simp] theorem State.sampleCryptodisable_v (s : State) (a : Bool) : (s.sampleCryptodisable a).v = s.v := rfl

@[simp] theorem State.sampleCryptodisable_pc (s : State) (a : Bool) : (s.sampleCryptodisable a).pc = s.pc := rfl

@[simp] theorem State.sampleCryptodisable_pstate (s : State) (a : Bool) : (s.sampleCryptodisable a).pstate = s.pstate := rfl

@[simp] theorem State.sampleCryptodisable_sp (s : State) (a : Bool) : (s.sampleCryptodisable a).sp = s.sp := rfl

@[simp] theorem State.sampleCryptodisable_fpcr (s : State) (a : Bool) : (s.sampleCryptodisable a).fpcr = s.fpcr := rfl

@[simp] theorem State.sampleCryptodisable_fpsr (s : State) (a : Bool) : (s.sampleCryptodisable a).fpsr = s.fpsr := rfl

@[simp] theorem State.sampleCryptodisable_el1 (s : State) (a : Bool) : (s.sampleCryptodisable a).el1 = s.el1 := rfl

@[simp] theorem State.sampleCryptodisable_el2 (s : State) (a : Bool) : (s.sampleCryptodisable a).el2 = s.el2 := rfl

@[simp] theorem State.sampleCryptodisable_el3 (s : State) (a : Bool) : (s.sampleCryptodisable a).el3 = s.el3 := rfl

@[simp] theorem State.sampleCryptodisable_mem (s : State) (a : Bool) : (s.sampleCryptodisable a).mem = s.mem := rfl

@[simp] theorem State.sampleCryptodisable_freeCount (s : State) (a : Bool) : (s.sampleCryptodisable a).freeCount = s.freeCount := rfl

@[simp] theorem State.sampleCryptodisable_level (s : State) (a : Bool) :
    (s.sampleCryptodisable a).params.cryptodisableAtReset = a := rfl

end Sys2Proof.Machine
end

