-- ==== Sys2Proof/Laws/Operands.lean ====
section
/-! SUPPORT. The operand forms: reading after writing a register, and the elements of a value built from elements. -/

namespace Sys2Proof.Machine

/-! ## Registers -/

/-- A V register read after it is written gives the value written. -/
theorem State.readV_writeV_same (s : State) {i : Nat} (val : Quad) (h : i < 32) : (s.writeV i val).readV i = val := by
  simp [State.readV, State.writeV, h]

/-- A write of a V register leaves every other V register alone. -/
theorem State.readV_writeV_ne (s : State) {i j : Nat} (val : Quad) (h : j ≠ i) : (s.writeV i val).readV j = s.readV j := by
  unfold State.writeV State.readV
  split
  · split
    · simp [Ne.symm h]
    · rfl
  · rfl

/-- An X register read after it is written gives the value written. -/
theorem State.readX_writeX_same (s : State) {t : Nat} (val : Word) (h : t < 31) : (s.writeX t val).readX t = val := by
  simp [State.readX, State.writeX, h]

/-- A write of an X register leaves every other X register alone. -/
theorem State.readX_writeX_ne (s : State) {t r : Nat} (val : Word) (h : r ≠ t) : (s.writeX t val).readX r = s.readX r := by
  unfold State.writeX State.readX
  split
  · split
    · simp [Ne.symm h]
    · rfl
  · rfl

/-- A write to the zero register is discarded (00_scope.md R12). -/
theorem State.writeX_zeroRegister (s : State) (val : Word) : s.writeX 31 val = s := rfl

/-- The zero register reads 0 (00_scope.md R12). -/
theorem State.readX_zeroRegister (s : State) : s.readX 31 = 0 := rfl

@[simp] theorem State.readX_writeV (s : State) (i r : Nat) (val : Quad) : (s.writeV i val).readX r = s.readX r := by
  simp [State.readX]

@[simp] theorem State.readV_writeX (s : State) (t i : Nat) (val : Word) : (s.writeX t val).readV i = s.readV i := by
  simp [State.readV]

/-! ## Elements -/

/-- The bits of a value built from bytes, as bits of the concatenation. -/
theorem getLsbD_ofBytes (f : Nat → Byte) (j : Nat) : (ofBytes f).getLsbD j =
    @BitVec.getLsbD (8 + 8 + 8 + 8 + 8 + 8 + 8 + 8 + 8 + 8 + 8 + 8 + 8 + 8 + 8 + 8)
      (f 15 ++ f 14 ++ f 13 ++ f 12 ++ f 11 ++ f 10 ++ f 9 ++ f 8 ++ f 7 ++ f 6 ++ f 5 ++ f 4 ++ f 3 ++ f 2 ++ f 1 ++ f 0)
      j := rfl

/-- The bits of a value built from lanes, as bits of the concatenation. -/
theorem getLsbD_ofLanes (f : Nat → Lane) (j : Nat) : (ofLanes f).getLsbD j =
    @BitVec.getLsbD (32 + 32 + 32 + 32) (f 3 ++ f 2 ++ f 1 ++ f 0) j := rfl

/-- Byte `i` of the value built from the bytes `f` is `f i`. -/
theorem byteOf_ofBytes (f : Nat → Byte) {i : Nat} (h : i < 16) : byteOf (ofBytes f) i = f i := by
  apply BitVec.eq_of_getLsbD_eq
  intro j hj
  rw [byteOf, BitVec.getLsbD_extractLsb', getLsbD_ofBytes]
  simp only [BitVec.getLsbD_append]
  interval_cases i <;> interval_cases j <;> rfl

/-- Lane `e` of the value built from the lanes `f` is `f e`. -/
theorem laneOf_ofLanes (f : Nat → Lane) {e : Nat} (h : e < 4) : laneOf (ofLanes f) e = f e := by
  apply BitVec.eq_of_getLsbD_eq
  intro j hj
  rw [laneOf, BitVec.getLsbD_extractLsb', getLsbD_ofLanes]
  simp only [BitVec.getLsbD_append]
  interval_cases e <;> interval_cases j <;> rfl

/-- Two 128-bit values with the same sixteen bytes are equal. -/
theorem eq_of_byteOf_eq {v w : Quad} (h : ∀ i, i < 16 → byteOf v i = byteOf w i) : v = w := by
  apply BitVec.eq_of_getLsbD_eq
  intro j hj
  have hb := congrArg (fun b => b.getLsbD (j % 8)) (h (j / 8) (by omega))
  simp only [byteOf, BitVec.getLsbD_extractLsb'] at hb
  rw [show 8 * (j / 8) + j % 8 = j by omega] at hb
  simpa [show j % 8 < 8 by omega] using hb

/-- Two 128-bit values with the same four lanes are equal. -/
theorem eq_of_laneOf_eq {v w : Quad} (h : ∀ e, e < 4 → laneOf v e = laneOf w e) : v = w := by
  apply BitVec.eq_of_getLsbD_eq
  intro j hj
  have hb := congrArg (fun b => b.getLsbD (j % 32)) (h (j / 32) (by omega))
  simp only [laneOf, BitVec.getLsbD_extractLsb'] at hb
  rw [show 32 * (j / 32) + j % 32 = j by omega] at hb
  simpa [show j % 32 < 32 by omega] using hb

/-- A lane of a value with one lane replaced. -/
theorem laneOf_setLane (v : Quad) (e : Nat) (x : Lane) {k : Nat} (h : k < 4) :
    laneOf (setLane v e x) k = if k = e then x else laneOf v k := by
  rw [setLane, laneOf_ofLanes _ h]

end Sys2Proof.Machine
end

