-- ==== Sys2Proof/Laws/Ops.lean ====
section
/-! SUPPORT. For each shared operation, once, everything it can do. -/

namespace Sys2Proof.Machine

/-! ## Advancing -/

/-- `advance` answers a next state exactly when `pc + 4` does not wrap, and then only `pc` moves (10_state.md R24). -/
theorem advance_next (s : State) (h : s.pc.toNat + 4 < Config.addressCount) : advance s = .next { s with pc := s.pc + 4 } := by
  rw [advance, if_pos h]

/-- Everything `advance` can do. -/
theorem advance_cases (s : State) :
    (s.pc.toNat + 4 < Config.addressCount ∧ advance s = .next { s with pc := s.pc + 4 }) ∨
      (Config.addressCount ≤ s.pc.toNat + 4 ∧ advance s = .refused .pcWrap) := by
  unfold advance
  split
  · exact .inl ⟨by assumption, rfl⟩
  · exact .inr ⟨by omega, rfl⟩

/-- Alignment as arithmetic (20_memory.md R65). -/
theorem pcAligned_eq (p : Word) : pcAligned p = decide (p.toNat % 4 = 0) := by
  rw [pcAligned, Bool.eq_iff_iff, beq_iff_eq, decide_eq_true_eq, ← BitVec.toNat_inj]
  simp

/-- Four further on is still aligned. -/
theorem pcAligned_add_four (pc : Word) : pcAligned (pc + 4) = pcAligned pc := by
  rw [pcAligned_eq, pcAligned_eq, Bool.eq_iff_iff, decide_eq_true_eq, decide_eq_true_eq, BitVec.toNat_add]
  simp

/-! ## The UNDEFINED exception -/

/-- Everything `raiseUndefined` can do (60_exceptions.md R159, or R156 to R158). -/
theorem raiseUndefined_cases (info : UndefinedInfo) (w : InstrWord) (s : State) :
    (s.params.undefinedOutcome = .endsRun ∧ raiseUndefined info w s = .fault (.undefined info s.pc w)) ∨
      (s.params.undefinedOutcome = .entersHandler ∧
        raiseUndefined info w s = .next (takeException undefinedSyndrome s)) := by
  unfold raiseUndefined
  cases h : s.params.undefinedOutcome
  · exact .inl ⟨rfl, rfl⟩
  · exact .inr ⟨rfl, rfl⟩

/-! ## How an instruction begins and ends -/

/-- A cryptographic instruction that executes normally (60_exceptions.md R150, 10_state.md R24). -/
theorem cryptoWrite_ready (i : Instr) (d : Nat) (r : Quad) (s : State) (h : s.CryptoReady) :
    cryptoWrite i d r s = .next { s.writeV d r with pc := s.pc + 4 } := by
  obtain ⟨he, hs, hp⟩ := h
  rw [cryptoWrite, checkCrypto, he, hs, advance_next _ (by simpa using hp)]
  simp

/-- Everything a cryptographic instruction can do. -/
theorem cryptoWrite_cases (i : Instr) (d : Nat) (r : Quad) (s : State) :
    (s.cryptoEnabled = false ∧ cryptoWrite i d r s = raiseUndefined .cryptoDisabled (encode i) s) ∨
      (s.cryptoEnabled = true ∧ s.params.simdAccessEnabled = false ∧ cryptoWrite i d r s = .refused .simdTrapUnmodelled) ∨
      (s.cryptoEnabled = true ∧ s.params.simdAccessEnabled = true ∧ Config.addressCount ≤ s.pc.toNat + 4 ∧
        cryptoWrite i d r s = .refused .pcWrap) ∨
      (s.CryptoReady ∧ cryptoWrite i d r s = .next { s.writeV d r with pc := s.pc + 4 }) := by
  cases he : s.cryptoEnabled
  · exact .inl ⟨rfl, by simp [cryptoWrite, checkCrypto, he]⟩
  · cases hs : s.params.simdAccessEnabled
    · exact .inr (.inl ⟨rfl, rfl, by simp [cryptoWrite, checkCrypto, he, hs]⟩)
    · rcases advance_cases (s.writeV d r) with ⟨hp, ha⟩ | ⟨hp, ha⟩
      · have hr : s.CryptoReady := ⟨he, hs, by simpa using hp⟩
        exact .inr (.inr (.inr ⟨hr, cryptoWrite_ready i d r s hr⟩))
      · exact .inr (.inr (.inl ⟨rfl, rfl, by simpa using hp, by simp [cryptoWrite, checkCrypto, he, hs, ha]⟩))

/-- A level other than EL0 may read the ID registers, in either Security state (40_id_register_read.md R99). -/
theorem idReadAllowed_iff (el : EL) (sec : Bool) : idReadAllowed el sec = true ↔ el ≠ .el0 := by
  cases el <;> simp [idReadAllowed]

/-- A read of an ID register that executes normally (40_id_register_read.md R97, R98). -/
theorem readIdRegister_ready (i : Instr) (t : Nat) (val : Word) (s : State) (h : s.IdReadReady) :
    readIdRegister i t val s = .next { s.writeX t val with pc := s.pc + 4 } := by
  obtain ⟨he, hs, hp⟩ := h
  rw [readIdRegister, (idReadAllowed_iff _ _).2 he, hs, advance_next _ (by simpa using hp)]
  simp

/-- Everything a read of an ID register can do. -/
theorem readIdRegister_cases (i : Instr) (t : Nat) (val : Word) (s : State) :
    (s.currentEl = .el0 ∧ readIdRegister i t val s = raiseUndefined .el0IdRead (encode i) s) ∨
      (s.currentEl ≠ .el0 ∧ s.params.idReadsNotTrapped = false ∧
        readIdRegister i t val s = .refused .idReadTrapUnmodelled) ∨
      (s.currentEl ≠ .el0 ∧ s.params.idReadsNotTrapped = true ∧ Config.addressCount ≤ s.pc.toNat + 4 ∧
        readIdRegister i t val s = .refused .pcWrap) ∨
      (s.IdReadReady ∧ readIdRegister i t val s = .next { s.writeX t val with pc := s.pc + 4 }) := by
  by_cases he : s.currentEl = .el0
  · exact .inl ⟨he, by simp [readIdRegister, he, idReadAllowed]⟩
  · have ha := (idReadAllowed_iff _ s.params.secure).2 he
    cases hs : s.params.idReadsNotTrapped
    · exact .inr (.inl ⟨he, rfl, by simp [readIdRegister, ha, hs]⟩)
    · rcases advance_cases (s.writeX t val) with ⟨hp, hv⟩ | ⟨hp, hv⟩
      · have hr : s.IdReadReady := ⟨he, hs, by simpa using hp⟩
        exact .inr (.inr (.inr ⟨hr, readIdRegister_ready i t val s hr⟩))
      · exact .inr (.inr (.inl ⟨he, rfl, by simpa using hp, by simp [readIdRegister, ha, hs, hv]⟩))

/-! ## Taking an exception and returning from one -/

/-- The bank of the target level after an exception is taken: the return address, the process state, the syndrome, a free
value, and the vector base as it was (60_exceptions.md R152, R153, R157). -/
theorem takeException_bank_target (e : Syndrome) (s : State) :
    (takeException e s).bank s.exceptionTarget =
      { s.bank s.exceptionTarget with elr := s.pc, spsr := s.pstate, esr := e, far := Config.freeFar s.freeCount } := by
  simp only [takeException]
  cases s.exceptionTarget <;> rfl

/-- Every other bank stays when an exception is taken. -/
theorem takeException_bank_other (e : Syndrome) (s : State) {l : HandlerLevel} (h : l ≠ s.exceptionTarget) :
    (takeException e s).bank l = s.bank l := by
  simp only [takeException]
  generalize s.exceptionTarget = tgt at h ⊢
  cases tgt <;> cases l <;> simp_all [State.bank, State.setBank]

/-- The vector base of every level stays when an exception is taken. -/
theorem takeException_vbar (e : Syndrome) (s : State) (l : HandlerLevel) :
    ((takeException e s).bank l).vbar = (s.bank l).vbar := by
  by_cases h : l = s.exceptionTarget
  · rw [h, takeException_bank_target]
  · rw [takeException_bank_other e s h]

/-- The vector's offset keeps alignment: an aligned vector base gives an aligned handler address (60_exceptions.md R158). -/
theorem pcAligned_vector (s : State) (target : HandlerLevel) (vbar : Word) :
    pcAligned (vbar + s.vectorOffset target) = pcAligned vbar := by
  rw [pcAligned_eq, pcAligned_eq, Bool.eq_iff_iff, decide_eq_true_eq, decide_eq_true_eq, BitVec.toNat_add]
  unfold State.vectorOffset
  split
  · split
    · simp
      omega
    · simp
  · simp
    omega

/-- Everything a return from exception can do (60_exceptions.md R160, R166). -/
theorem exceptionReturn_cases (s : State) :
    exceptionReturn s = .refused .illegalExceptionReturn ∨
      ∃ l : HandlerLevel, l.toEL = s.currentEl ∧ (s.bank l).spsr.el.rank ≤ s.currentEl.rank ∧
        exceptionReturn s = .next { s with pc := (s.bank l).elr, pstate := (s.bank l).spsr } := by
  unfold exceptionReturn State.currentEl
  cases h : s.pstate.el
  case el0 => exact .inl rfl
  case el1 =>
    dsimp only; split
    · exact .inr ⟨.el1, rfl, by assumption, rfl⟩
    · exact .inl rfl
  case el2 =>
    dsimp only; split
    · exact .inr ⟨.el2, rfl, by assumption, rfl⟩
    · exact .inl rfl
  case el3 =>
    dsimp only; split
    · exact .inr ⟨.el3, rfl, by assumption, rfl⟩
    · exact .inl rfl

/-! ## The fetch -/

/-- Everything the fetch can do (20_memory.md R61, R65, 70_reset_and_hazards.md R188). -/
theorem fetch_cases (s : State) (run : InstrWord → Result) :
    (pcAligned s.pc = false ∧ fetch s run = .refused .pcMisaligned) ∨
      (pcAligned s.pc = true ∧ s.pc = s.params.endPc ∧ fetch s run = .refused .runEnded) ∨
      (pcAligned s.pc = true ∧ s.pc ≠ s.params.endPc ∧ s.mem.fetchWord s.pc = none ∧
        fetch s run = .fault (.fetchOutsideText s.pc)) ∨
      (∃ w, pcAligned s.pc = true ∧ s.pc ≠ s.params.endPc ∧ s.mem.fetchWord s.pc = some w ∧ fetch s run = run w) := by
  unfold fetch
  cases ha : pcAligned s.pc
  · exact .inl ⟨rfl, rfl⟩
  · by_cases he : s.pc = s.params.endPc
    · exact .inr (.inl ⟨rfl, he, by simp [he]⟩)
    · cases hm : s.mem.fetchWord s.pc with
      | none => exact .inr (.inr (.inl ⟨rfl, he, rfl, by simp [he]⟩))
      | some w => exact .inr (.inr (.inr ⟨w, rfl, he, rfl, by simp [he]⟩))

/-- Everything decoding and running can do (30_encoding.md R84, R87). -/
theorem decodeAndRun_cases (w : InstrWord) (run : Instr → Result) :
    (∃ i, decode w = .ok i ∧ decodeAndRun w run = run i) ∨
      (∃ why, decode w = .error why ∧ decodeAndRun w run = .refused (.outsideSpec why w)) := by
  unfold decodeAndRun
  cases h : decode w with
  | ok i => exact .inl ⟨i, rfl, rfl⟩
  | error why => exact .inr ⟨why, rfl, rfl⟩

end Sys2Proof.Machine
end

