-- ==== Sys2Proof/Laws/Exec.lean ====
section
/-! SUPPORT. What one instruction, and one step, can do: the inversion lemmas the invariants are proved from. -/

namespace Sys2Proof.Machine

/-- Writing one V register and advancing changes nothing else. -/
theorem onlyVAndPc_writeV (s : State) (d : Nat) (r : Quad) : OnlyVAndPc s { s.writeV d r with pc := s.pc + 4 } d where
  pc := rfl
  v := fun _ h => State.readV_writeV_ne s r h
  x := fun j => State.readX_writeV s d j r
  rest := by constructor <;> simp

/-- Writing one X register and advancing changes nothing else. -/
theorem onlyXAndPc_writeX (s : State) (t : Nat) (val : Word) : OnlyXAndPc s { s.writeX t val with pc := s.pc + 4 } t where
  pc := rfl
  x := fun _ h => State.readX_writeX_ne s val h
  v := fun j => State.readV_writeX s t j val
  rest := by constructor <;> simp

/-- Every cryptographic instruction is `cryptoWrite` of a destination and a result. -/
theorem exec_crypto (i : Instr) (h : i.isCrypto = true) (s : State) : ∃ d r, exec i s = cryptoWrite i d r s := by
  cases i <;> first | exact ⟨_, _, rfl⟩ | simp [Instr.isCrypto, Instr.family] at h

/-- Each of the two other instructions is a read of an ID register. -/
theorem exec_idRead (i : Instr) (h : i.isCrypto = false) (s : State) : ∃ t val, exec i s = readIdRegister i t val s := by
  cases i <;> first | exact ⟨_, _, rfl⟩ | simp [Instr.isCrypto, Instr.family] at h

/-- Everything an instruction that answers a next state can do: write one V register and advance, write one X register and
advance, or take the UNDEFINED exception. -/
theorem exec_next_cases {i : Instr} {s t : State} (h : exec i s = .next t) :
    (i.isCrypto = true ∧ s.CryptoReady ∧ ∃ d r, t = { s.writeV d r with pc := s.pc + 4 }) ∨
      (i.isCrypto = false ∧ s.IdReadReady ∧ ∃ r val, t = { s.writeX r val with pc := s.pc + 4 }) ∨
      (s.params.undefinedOutcome = .entersHandler ∧ t = takeException undefinedSyndrome s) := by
  have hu : ∀ info w, raiseUndefined info w s = .next t →
      s.params.undefinedOutcome = .entersHandler ∧ t = takeException undefinedSyndrome s := by
    intro info w hr
    rcases raiseUndefined_cases info w s with ⟨_, hc⟩ | ⟨ho, hc⟩ <;> rw [hc] at hr
    · simp at hr
    · simp only [Host.Outcome.next.injEq] at hr
      exact ⟨ho, hr.symm⟩
  cases hi : i.isCrypto
  · obtain ⟨r, val, he⟩ := exec_idRead i hi s
    rw [he] at h
    rcases readIdRegister_cases i r val s with ⟨_, hc⟩ | ⟨_, _, hc⟩ | ⟨_, _, _, hc⟩ | ⟨hr, hc⟩ <;> rw [hc] at h
    · exact .inr (.inr (hu _ _ h))
    · simp at h
    · simp at h
    · simp only [Host.Outcome.next.injEq] at h
      exact .inr (.inl ⟨rfl, hr, r, val, h.symm⟩)
  · obtain ⟨d, r, he⟩ := exec_crypto i hi s
    rw [he] at h
    rcases cryptoWrite_cases i d r s with ⟨_, hc⟩ | ⟨_, _, hc⟩ | ⟨_, _, _, hc⟩ | ⟨hr, hc⟩ <;> rw [hc] at h
    · exact .inr (.inr (hu _ _ h))
    · simp at h
    · simp at h
    · simp only [Host.Outcome.next.injEq] at h
      exact .inl ⟨rfl, hr, d, r, h.symm⟩

/-- A step that answers a next state ran the instruction decoded at the program counter. -/
theorem step_next_cases {s t : State} (h : step s = .next t) :
    ∃ w i, pcAligned s.pc = true ∧ s.pc ≠ s.params.endPc ∧ s.mem.fetchWord s.pc = some w ∧ decode w = .ok i ∧
      exec i s = .next t := by
  unfold step at h
  rcases fetch_cases s (fun w => decodeAndRun w (fun i => exec i s)) with
    ⟨_, hc⟩ | ⟨_, _, hc⟩ | ⟨_, _, _, hc⟩ | ⟨w, ha, he, hm, hc⟩ <;> rw [hc] at h
  · simp at h
  · simp at h
  · simp at h
  · rcases decodeAndRun_cases w (fun i => exec i s) with ⟨i, hd, hc'⟩ | ⟨why, hd, hc'⟩ <;> rw [hc'] at h
    · exact ⟨w, i, ha, he, hm, hd, h⟩
    · simp at h

end Sys2Proof.Machine
end

