-- ==== Sys2Proof/Laws/Memory.lean ====
section
/-! SUPPORT. Memory: a read after a write gives the byte written, a write leaves every other address alone, and every
operation keeps the canonical form. -/

namespace Sys2Proof.Machine

/-- Nothing is listed below the first address of a memory in canonical form. -/
theorem Memory.wf_tail {c : Host.Cell} {rest : Memory} (h : Memory.wf (c :: rest) = true) : Memory.wf rest = true := by
  cases rest with
  | nil => rfl
  | cons c' rest => simp only [Memory.wf, Bool.and_eq_true] at h; exact h.2

/-- The byte inserted is the byte read back. -/
theorem Memory.readByte_insert_same (m : Memory) (addr : Nat) (val : Byte) :
    (m.insert addr val).readByte addr = some val := by
  induction m with
  | nil => simp [Memory.insert, Memory.readByte]
  | cons c rest ih =>
    obtain ⟨a, b⟩ := c
    simp only [Memory.insert]
    split
    · simp [Memory.readByte]
    · split
      · simp [Memory.readByte]
      · rw [Memory.readByte, if_neg (by omega), if_neg (by omega), ih]

/-- An insertion leaves every other address alone. -/
theorem Memory.readByte_insert_ne (m : Memory) {addr a' : Nat} (val : Byte) (hm : m.wf = true) (h : a' ≠ addr) :
    (m.insert addr val).readByte a' = m.readByte a' := by
  induction m with
  | nil => simp [Memory.insert, Memory.readByte, Ne.symm h]
  | cons c rest ih =>
    obtain ⟨a, b⟩ := c
    simp only [Memory.insert]
    split
    · simp only [Memory.readByte, Ne.symm h, if_false]
      split
      · split
        · omega
        · split
          · rfl
          · omega
      · rfl
    · split
      · subst_vars
        cases rest with
        | nil => simp [Memory.readByte, Ne.symm h]
        | cons c' rest => simp [Memory.readByte, Ne.symm h]
      · simp only [Memory.readByte, ih (Memory.wf_tail hm)]

/-- The first address after an insertion is the old first address or the one inserted. -/
theorem Memory.insert_wf_cons {c : Host.Cell} {m : Memory} {addr : Nat} {val : Byte} (hm : Memory.wf (c :: m) = true)
    (hc : c.1 < addr) (hi : (m.insert addr val).wf = true) : Memory.wf (c :: m.insert addr val) = true := by
  cases m with
  | nil => simpa [Memory.insert, Memory.wf, hc] using hi
  | cons c' rest =>
    obtain ⟨a, b⟩ := c'
    have hlt : c.1 < a := by simp only [Memory.wf, Bool.and_eq_true, decide_eq_true_eq] at hm; exact hm.1
    simp only [Memory.insert] at hi ⊢
    split at hi
    · simp_all [Memory.wf]
    · split at hi
      · simp_all [Memory.wf]
      · rw [if_neg (by omega), if_neg (by omega)]
        simp only [Memory.wf, Bool.and_eq_true, decide_eq_true_eq]
        exact ⟨hlt, hi⟩

/-- The first address of a memory in canonical form is a 64-bit address. -/
theorem Memory.wf_head {c : Host.Cell} {rest : Memory} (h : Memory.wf (c :: rest) = true) : c.1 < Config.addressCount := by
  induction rest generalizing c with
  | nil => simpa [Memory.wf] using h
  | cons c' rest ih =>
    simp only [Memory.wf, Bool.and_eq_true, decide_eq_true_eq] at h
    have := ih h.2
    omega

/-- An insertion keeps the canonical form. -/
theorem Memory.insert_wf (m : Memory) {addr : Nat} (val : Byte) (hm : m.wf = true) (ha : addr < Config.addressCount) :
    (m.insert addr val).wf = true := by
  induction m with
  | nil => simpa [Memory.insert, Memory.wf] using ha
  | cons c rest ih =>
    obtain ⟨a, b⟩ := c
    simp only [Memory.insert]
    split
    · simp only [Memory.wf, Bool.and_eq_true, decide_eq_true_eq]; exact ⟨by assumption, hm⟩
    · split
      · subst_vars
        cases rest with
        | nil => simpa [Memory.wf] using ha
        | cons c' rest => simpa [Memory.wf] using hm
      · exact Memory.insert_wf_cons hm (by simp; omega) (ih (Memory.wf_tail hm))

/-- A write of one byte keeps the canonical form. -/
theorem Memory.writeByte_wf (m : Memory) (addr : Nat) (val : Byte) (hm : m.wf = true) : (m.writeByte addr val).wf = true := by
  unfold Memory.writeByte
  split
  · exact Memory.insert_wf m val hm (by assumption)
  · exact hm

/-- A wider write keeps the canonical form. -/
theorem Memory.write_wf (m : Memory) (addr n : Nat) (val : BitVec (8 * n)) (hm : m.wf = true) :
    (m.write addr n val).wf = true := by
  unfold Memory.write
  induction List.range n generalizing m with
  | nil => exact hm
  | cons i rest ih => exact ih _ (Memory.writeByte_wf m _ _ hm)

/-- The byte written is the byte read back. -/
theorem Memory.readByte_writeByte_same (m : Memory) {addr : Nat} (val : Byte) (ha : addr < Config.addressCount) :
    (m.writeByte addr val).readByte addr = some val := by
  simp only [Memory.writeByte, if_pos ha, Memory.readByte_insert_same]

/-- A write of one byte leaves every other address alone. -/
theorem Memory.readByte_writeByte_ne (m : Memory) {addr a' : Nat} (val : Byte) (hm : m.wf = true) (h : a' ≠ addr) :
    (m.writeByte addr val).readByte a' = m.readByte a' := by
  unfold Memory.writeByte
  split
  · exact Memory.readByte_insert_ne m val hm h
  · rfl

/-- The word fetched where four bytes lie (20_memory.md R63). -/
theorem Memory.fetchWord_of_bytes (m : Memory) (a : Word) {b0 b1 b2 b3 : Byte} (h0 : m.readByte a.toNat = some b0)
    (h1 : m.readByte (a.toNat + 1) = some b1) (h2 : m.readByte (a.toNat + 2) = some b2)
    (h3 : m.readByte (a.toNat + 3) = some b3) : m.fetchWord a = some (wordOfBytes b0 b1 b2 b3) := by
  simp only [Memory.fetchWord, Memory.read, h0, h1, h2, h3, Nat.add_zero, Option.some.injEq]
  apply BitVec.eq_of_toNat_eq
  simp only [wordOfBytes, BitVec.toNat_cast, BitVec.toNat_append, Nat.shiftLeft_or_distrib, ← Nat.shiftLeft_add,
    Nat.or_assoc]
  simp

/-- A four-byte write as four writes of one byte, the low byte lowest (20_memory.md R63). -/
theorem Memory.write_four (m : Memory) (a : Nat) (w : InstrWord) : m.write a 4 w =
    (((m.writeByte (a + 0) (w.extractLsb' 0 8)).writeByte (a + 1) (w.extractLsb' 8 8)).writeByte (a + 2)
      (w.extractLsb' 16 8)).writeByte (a + 3) (w.extractLsb' 24 8) := rfl

/-- The memory of a launched program text is in canonical form. -/
theorem textMemory_wf (text : List (Word × InstrWord)) : (textMemory text).wf = true := by
  unfold textMemory
  have h : ∀ m : Memory, m.wf = true → (text.foldl (fun m w => m.write w.1.toNat 4 w.2) m).wf = true := by
    induction text with
    | nil => exact fun m hm => hm
    | cons w rest ih => exact fun m hm => ih _ (Memory.write_wf m _ _ _ hm)
  exact h [] rfl

end Sys2Proof.Machine
end

