-- ==== Sys2Proof/Laws/PerInstr.lean ====
section
/-! SUPPORT. Family `SelectsRow`: the two accounts the spec gives of one encoding agree on the fixed bits; the word built
from a format's fields (30_encoding.md R76 to R80) selects the instruction's own row of the opcode map (R83). -/

namespace Sys2Proof.Laws.SelectsRow

/-- Where an instruction's row stands in the opcode map (30_encoding.md R83). -/
def rowIndex : Instr → Nat
  | .mrsIdAa64isar0 _ => 0
  | .mrsIdIsar5 _ => 1
  | .aese _ _ => 2
  | .aesd _ _ => 3
  | .aesmc _ _ => 4
  | .aesimc _ _ => 5
  | .pmull _ _ _ => 6
  | .pmull2 _ _ _ => 7
  | .sha1c _ _ _ => 8
  | .sha1p _ _ _ => 9
  | .sha1m _ _ _ => 10
  | .sha1h _ _ => 11
  | .sha1su0 _ _ _ => 12
  | .sha1su1 _ _ => 13
  | .sha256h _ _ _ => 14
  | .sha256h2 _ _ _ => 15
  | .sha256su0 _ _ => 16
  | .sha256su1 _ _ _ => 17

/-- The word of an instruction selects that instruction's row. -/
def Statement (i : Instr) : Prop := (opcodeTable[rowIndex i]?).any (fun r => r.selects (encode i)) = true

theorem mrsIdAa64isar0 (t : Nat) : Statement (.mrsIdAa64isar0 t) := by
  show (encode (.mrsIdAa64isar0 t) &&& _ == _) = true
  rw [beq_iff_eq]
  apply BitVec.eq_of_getLsbD_eq
  intro i hi
  rw [encode, BitVec.getLsbD_and, getLsbD_encodeMrs]
  simp only [BitVec.getLsbD_append]
  interval_cases i <;> simp

theorem mrsIdIsar5 (t : Nat) : Statement (.mrsIdIsar5 t) := by
  show (encode (.mrsIdIsar5 t) &&& _ == _) = true
  rw [beq_iff_eq]
  apply BitVec.eq_of_getLsbD_eq
  intro i hi
  rw [encode, BitVec.getLsbD_and, getLsbD_encodeMrs]
  simp only [BitVec.getLsbD_append]
  interval_cases i <;> simp

theorem aese (d n : Nat) : Statement (.aese d n) := by
  show (encode (.aese d n) &&& _ == _) = true
  rw [beq_iff_eq]
  apply BitVec.eq_of_getLsbD_eq
  intro i hi
  rw [encode, BitVec.getLsbD_and, getLsbD_encodeCryptoAes]
  simp only [BitVec.getLsbD_append]
  interval_cases i <;> simp

theorem aesd (d n : Nat) : Statement (.aesd d n) := by
  show (encode (.aesd d n) &&& _ == _) = true
  rw [beq_iff_eq]
  apply BitVec.eq_of_getLsbD_eq
  intro i hi
  rw [encode, BitVec.getLsbD_and, getLsbD_encodeCryptoAes]
  simp only [BitVec.getLsbD_append]
  interval_cases i <;> simp

theorem aesmc (d n : Nat) : Statement (.aesmc d n) := by
  show (encode (.aesmc d n) &&& _ == _) = true
  rw [beq_iff_eq]
  apply BitVec.eq_of_getLsbD_eq
  intro i hi
  rw [encode, BitVec.getLsbD_and, getLsbD_encodeCryptoAes]
  simp only [BitVec.getLsbD_append]
  interval_cases i <;> simp

theorem aesimc (d n : Nat) : Statement (.aesimc d n) := by
  show (encode (.aesimc d n) &&& _ == _) = true
  rw [beq_iff_eq]
  apply BitVec.eq_of_getLsbD_eq
  intro i hi
  rw [encode, BitVec.getLsbD_and, getLsbD_encodeCryptoAes]
  simp only [BitVec.getLsbD_append]
  interval_cases i <;> simp

theorem pmull (d n m : Nat) : Statement (.pmull d n m) := by
  show (encode (.pmull d n m) &&& _ == _) = true
  rw [beq_iff_eq]
  apply BitVec.eq_of_getLsbD_eq
  intro i hi
  rw [encode, BitVec.getLsbD_and, getLsbD_encodePmull]
  simp only [BitVec.getLsbD_append]
  interval_cases i <;> simp

theorem pmull2 (d n m : Nat) : Statement (.pmull2 d n m) := by
  show (encode (.pmull2 d n m) &&& _ == _) = true
  rw [beq_iff_eq]
  apply BitVec.eq_of_getLsbD_eq
  intro i hi
  rw [encode, BitVec.getLsbD_and, getLsbD_encodePmull]
  simp only [BitVec.getLsbD_append]
  interval_cases i <;> simp

theorem sha1c (d n m : Nat) : Statement (.sha1c d n m) := by
  show (encode (.sha1c d n m) &&& _ == _) = true
  rw [beq_iff_eq]
  apply BitVec.eq_of_getLsbD_eq
  intro i hi
  rw [encode, BitVec.getLsbD_and, getLsbD_encodeCryptoSha3]
  simp only [BitVec.getLsbD_append]
  interval_cases i <;> simp

theorem sha1p (d n m : Nat) : Statement (.sha1p d n m) := by
  show (encode (.sha1p d n m) &&& _ == _) = true
  rw [beq_iff_eq]
  apply BitVec.eq_of_getLsbD_eq
  intro i hi
  rw [encode, BitVec.getLsbD_and, getLsbD_encodeCryptoSha3]
  simp only [BitVec.getLsbD_append]
  interval_cases i <;> simp

theorem sha1m (d n m : Nat) : Statement (.sha1m d n m) := by
  show (encode (.sha1m d n m) &&& _ == _) = true
  rw [beq_iff_eq]
  apply BitVec.eq_of_getLsbD_eq
  intro i hi
  rw [encode, BitVec.getLsbD_and, getLsbD_encodeCryptoSha3]
  simp only [BitVec.getLsbD_append]
  interval_cases i <;> simp

theorem sha1h (d n : Nat) : Statement (.sha1h d n) := by
  show (encode (.sha1h d n) &&& _ == _) = true
  rw [beq_iff_eq]
  apply BitVec.eq_of_getLsbD_eq
  intro i hi
  rw [encode, BitVec.getLsbD_and, getLsbD_encodeCryptoSha2]
  simp only [BitVec.getLsbD_append]
  interval_cases i <;> simp

theorem sha1su0 (d n m : Nat) : Statement (.sha1su0 d n m) := by
  show (encode (.sha1su0 d n m) &&& _ == _) = true
  rw [beq_iff_eq]
  apply BitVec.eq_of_getLsbD_eq
  intro i hi
  rw [encode, BitVec.getLsbD_and, getLsbD_encodeCryptoSha3]
  simp only [BitVec.getLsbD_append]
  interval_cases i <;> simp

theorem sha1su1 (d n : Nat) : Statement (.sha1su1 d n) := by
  show (encode (.sha1su1 d n) &&& _ == _) = true
  rw [beq_iff_eq]
  apply BitVec.eq_of_getLsbD_eq
  intro i hi
  rw [encode, BitVec.getLsbD_and, getLsbD_encodeCryptoSha2]
  simp only [BitVec.getLsbD_append]
  interval_cases i <;> simp

theorem sha256h (d n m : Nat) : Statement (.sha256h d n m) := by
  show (encode (.sha256h d n m) &&& _ == _) = true
  rw [beq_iff_eq]
  apply BitVec.eq_of_getLsbD_eq
  intro i hi
  rw [encode, BitVec.getLsbD_and, getLsbD_encodeCryptoSha3]
  simp only [BitVec.getLsbD_append]
  interval_cases i <;> simp

theorem sha256h2 (d n m : Nat) : Statement (.sha256h2 d n m) := by
  show (encode (.sha256h2 d n m) &&& _ == _) = true
  rw [beq_iff_eq]
  apply BitVec.eq_of_getLsbD_eq
  intro i hi
  rw [encode, BitVec.getLsbD_and, getLsbD_encodeCryptoSha3]
  simp only [BitVec.getLsbD_append]
  interval_cases i <;> simp

theorem sha256su0 (d n : Nat) : Statement (.sha256su0 d n) := by
  show (encode (.sha256su0 d n) &&& _ == _) = true
  rw [beq_iff_eq]
  apply BitVec.eq_of_getLsbD_eq
  intro i hi
  rw [encode, BitVec.getLsbD_and, getLsbD_encodeCryptoSha2]
  simp only [BitVec.getLsbD_append]
  interval_cases i <;> simp

theorem sha256su1 (d n m : Nat) : Statement (.sha256su1 d n m) := by
  show (encode (.sha256su1 d n m) &&& _ == _) = true
  rw [beq_iff_eq]
  apply BitVec.eq_of_getLsbD_eq
  intro i hi
  rw [encode, BitVec.getLsbD_and, getLsbD_encodeCryptoSha3]
  simp only [BitVec.getLsbD_append]
  interval_cases i <;> simp

end Sys2Proof.Laws.SelectsRow
end

