-- ==== Sys2Proof/Laws/Sha.lean ====
section
/-! SUPPORT. The rotations of the SHA round loops, lane by lane (43_sha1.md R126, 44_sha256.md R140). -/

namespace Sys2Proof.Machine
/-- The `Y` of `ROL_160(Y : X, 32)` is the highest lane of `X`. -/
theorem rol160_fst (y : Lane) (x : Quad) : (rol160 y x).1 = laneOf x 3 := by
  apply BitVec.eq_of_getLsbD_eq
  intro i hi
  simp only [rol160, rol, laneOf, BitVec.getLsbD_extractLsb', BitVec.getLsbD_or, BitVec.getLsbD_shiftLeft,
    BitVec.getLsbD_ushiftRight, BitVec.getLsbD_append]
  simp [hi, show 128 + i < 160 by omega, show ¬ 128 + i < 32 by omega, show 128 + i - 32 = 96 + i by omega,
    show 96 + i < 128 by omega, BitVec.getLsbD_of_ge y (128 + i) (by omega)]

/-- The lanes of the `X` of `ROL_160(Y : X, 32)`: `Y`, then the lanes of the old `X` moved up by one. -/
theorem laneOf_rol160_snd (y : Lane) (x : Quad) {e : Nat} (he : e < 4) :
    laneOf (rol160 y x).2 e = if e = 0 then y else laneOf x (e - 1) := by
  apply BitVec.eq_of_getLsbD_eq
  intro i hi
  rcases Nat.eq_zero_or_pos e with rfl | hp <;>
    simp only [rol160, rol, laneOf, BitVec.getLsbD_extractLsb', BitVec.getLsbD_or, BitVec.getLsbD_shiftLeft,
      BitVec.getLsbD_ushiftRight, BitVec.getLsbD_append, Nat.mul_zero, Nat.zero_add]
  · simp [hi, show i < 128 by omega]
  · simp [hi, show e ≠ 0 by omega, show 32 * e + i < 128 by omega, show 32 * e + i < 160 by omega,
      show ¬ 32 * e + i < 32 by omega, show 32 * e + i - 32 = 32 * (e - 1) + i by omega,
      show 32 * (e - 1) + i < 128 by omega, BitVec.getLsbD_of_ge y (32 * e + i) (by omega)]

/-- The lanes of the `Y` of `ROL_256(Y : X, 32)`: the highest lane of `X`, then the lanes of the old `Y` moved up by one. -/
theorem laneOf_rol256_fst (y x : Quad) {e : Nat} (he : e < 4) :
    laneOf (rol256 y x).1 e = if e = 0 then laneOf x 3 else laneOf y (e - 1) := by
  apply BitVec.eq_of_getLsbD_eq
  intro i hi
  have hy : y.getLsbD (224 + (128 + (32 * e + i)) - 128) = false := BitVec.getLsbD_of_ge y _ (by omega)
  rcases Nat.eq_zero_or_pos e with rfl | hp <;>
    simp only [rol256, rol, laneOf, BitVec.getLsbD_extractLsb', BitVec.getLsbD_or, BitVec.getLsbD_shiftLeft,
      BitVec.getLsbD_ushiftRight, BitVec.getLsbD_append, Nat.mul_zero, Nat.zero_add, if_pos] at hy ⊢
  · simp [hi, hy, show i < 128 by omega, show 128 + i < 256 by omega, show ¬ 128 + i < 32 by omega,
      show 128 + i - 32 = 96 + i by omega, show 96 + i < 128 by omega, show ¬ 224 + (128 + i) < 128 by omega]
  · simp [hi, hy, show e ≠ 0 by omega, show 32 * e + i < 128 by omega, show 128 + (32 * e + i) < 256 by omega,
      show ¬ 128 + (32 * e + i) < 32 by omega, show ¬ 128 + (32 * e + i) - 32 < 128 by omega,
      show 128 + (32 * e + i) - 32 - 128 = 32 * (e - 1) + i by omega, show ¬ 224 + (128 + (32 * e + i)) < 128 by omega]

/-- The lanes of the `X` of `ROL_256(Y : X, 32)`: the highest lane of `Y`, then the lanes of the old `X` moved up by one. -/
theorem laneOf_rol256_snd (y x : Quad) {e : Nat} (he : e < 4) :
    laneOf (rol256 y x).2 e = if e = 0 then laneOf y 3 else laneOf x (e - 1) := by
  apply BitVec.eq_of_getLsbD_eq
  intro i hi
  have hy : 0 < e → y.getLsbD (224 + (32 * e + i) - 128) = false := fun _ => BitVec.getLsbD_of_ge y _ (by omega)
  rcases Nat.eq_zero_or_pos e with rfl | hp <;>
    simp only [rol256, rol, laneOf, BitVec.getLsbD_extractLsb', BitVec.getLsbD_or, BitVec.getLsbD_shiftLeft,
      BitVec.getLsbD_ushiftRight, BitVec.getLsbD_append, Nat.mul_zero, Nat.zero_add, if_pos] at hy ⊢
  · simp [hi, show i < 128 by omega, show i < 256 by omega, show ¬ 224 + i < 128 by omega,
      show 224 + i - 128 = 96 + i by omega]
  · simp [hi, hy hp, show e ≠ 0 by omega, show 32 * e + i < 128 by omega, show 32 * e + i < 256 by omega,
      show ¬ 32 * e + i < 32 by omega, show 32 * e + i - 32 = 32 * (e - 1) + i by omega, show ¬ 224 + (32 * e + i) < 128 by omega,
      show 32 * (e - 1) + i < 128 by omega]
end Sys2Proof.Machine
end

