-- ==== Sys2Proof/Tests/Slice0.lean ====
section
/-! SUPPORT. Tests on the vectors of spec/95_test_vectors.md, on words written out from the spec's formats, and a witness for
the hypotheses of every statement that has some. Every expected value is the spec's. -/

open Sys2Proof Sys2Proof.Machine

namespace Sys2Proof.Tests

/-! ## Helpers -/

/-- The launch of 95_test_vectors.md's conventions: EL1, Non-secure, the extension enabled; `pc` is 0x1000, some V registers
hold a value. -/
def stV (regs : List (Nat × Quad)) : State :=
  let s : State := { State.reset with
    pc := 0x1000, pstate := { PState.reset with el := .el1 }, params := { Params.reset with secure := false } }
  regs.foldl (fun s r => s.writeV r.1 r.2) s

/-- The same launch with nothing in the V registers. -/
def st : State := stV []

/-- The same launch at another Exception level. -/
def State.atEl (s : State) (el : EL) : State := { s with pstate := { s.pstate with el := el } }

/-- The same launch with other parameters. -/
def State.withParams (s : State) (f : Params → Params) : State := { s with params := f s.params }

/-- The extension disabled at reset. -/
def State.disabled (s : State) : State := State.withParams s (fun p => { p with cryptodisableAtReset := true })

/-- The UNDEFINED exception goes to its handler. -/
def State.handled (s : State) : State := State.withParams s (fun p => { p with undefinedOutcome := .entersHandler })

/-- One step on a word placed at the program counter. -/
def stepOn (s : State) (w : InstrWord) : Result := step (s.withFetchWord 32 w.toNat)

/-- V register `i` after a step that completes. -/
def vAfter (r : Result) (i : Nat) : Option Quad :=
  match r with
  | .next t => some (t.readV i)
  | _ => none

/-- X register `i` and the program counter after a step that completes. -/
def xAfter (r : Result) (i : Nat) : Option (Word × Word) :=
  match r with
  | .next t => some (t.readX i, t.pc)
  | _ => none

/-- Whether a result is a next state. -/
def completes : Result → Bool
  | .next _ => true
  | _ => false

/-- Whether a result is a refusal of a word that matches no row. -/
def refusedOutside : Result → Bool
  | .refused (.outsideSpec (.outside _) _) => true
  | _ => false

/-- The fault a result is, if it is one. -/
def faultOf : Result → Option Fault
  | .fault r => some r
  | _ => none

/-- The refusal a result is, if it is one. -/
def refusalOf : Result → Option Refusal
  | .refused r => some r
  | _ => none

/-- Whether a step on this word ends in the fault R159 names, with this cause. -/
def faultsWith (info : UndefinedInfo) (s : State) (w : InstrWord) : Bool :=
  faultOf (stepOn s w) == some (.undefined info s.pc w)

/-- The vector with `Byte(x, i) = i` of Part 4. -/
def byteRamp : Quad := 0x0f0e0d0c0b0a09080706050403020100#128

def ones : Quad := 0xffffffffffffffffffffffffffffffff#128

/-! ## Well-formedness: each operand of each constructor is checked -/

theorem test_wf_one_register :
    (Instr.mrsIdAa64isar0 32).WellFormed = false ∧ (Instr.mrsIdIsar5 32).WellFormed = false ∧
    (Instr.mrsIdAa64isar0 31).WellFormed = true ∧ (Instr.mrsIdIsar5 31).WellFormed = true := by decide

theorem test_wf_two_registers :
    ∀ mk ∈ [Instr.aese, Instr.aesd, Instr.aesmc, Instr.aesimc, Instr.sha1h, Instr.sha1su1, Instr.sha256su0],
      (mk 32 0).WellFormed = false ∧ (mk 0 32).WellFormed = false ∧ (mk 31 31).WellFormed = true := by decide

theorem test_wf_three_registers :
    ∀ mk ∈ [Instr.pmull, Instr.pmull2, Instr.sha1c, Instr.sha1p, Instr.sha1m, Instr.sha1su0, Instr.sha256h,
        Instr.sha256h2, Instr.sha256su1],
      (mk 32 0 0).WellFormed = false ∧ (mk 0 32 0).WellFormed = false ∧ (mk 0 0 32).WellFormed = false ∧
      (mk 31 31 31).WellFormed = true := by decide

/-! ## Decoding words written out from the formats R76 to R80, every constructor once; the operands are the spec's T-E -/

-- SYSREG: 1101010100 L 1 o0 op1 CRn CRm op2 Rt (T-E23, T-E18)
theorem test_decode_mrs_aa64isar0 : decode 0b1101010100_1_1_1_000_0000_0110_000_11110#32 = .ok (.mrsIdAa64isar0 30) := by decide
theorem test_decode_mrs_isar5 : decode 0b1101010100_1_1_1_000_0000_0010_101_00101#32 = .ok (.mrsIdIsar5 5) := by decide
-- CRYPTO_AES: 01001110 size 10100 opcode 10 Rn Rd (T-E1 to T-E4)
theorem test_decode_aese : decode 0b01001110_00_10100_00100_10_00001_00000#32 = .ok (.aese 0 1) := by decide
theorem test_decode_aesd : decode 0b01001110_00_10100_00101_10_00011_00010#32 = .ok (.aesd 2 3) := by decide
theorem test_decode_aesmc : decode 0b01001110_00_10100_00110_10_00101_00100#32 = .ok (.aesmc 4 5) := by decide
theorem test_decode_aesimc : decode 0b01001110_00_10100_00111_10_00111_00110#32 = .ok (.aesimc 6 7) := by decide
-- SIMD_3DIFF: 0 Q U 01110 size 1 Rm opcode 00 Rn Rd (T-E21, T-E20)
theorem test_decode_pmull : decode 0b0_0_0_01110_11_1_10000_1110_00_00000_11111#32 = .ok (.pmull 31 0 16) := by decide
theorem test_decode_pmull2 : decode 0b0_1_0_01110_11_1_11111_1110_00_01001_10001#32 = .ok (.pmull2 17 9 31) := by decide
-- CRYPTO_SHA3: 01011110 size 0 Rm 0 opcode 00 Rn Rd (T-E27, T-E6 to T-E10, T-E19)
theorem test_decode_sha1c : decode 0b01011110_00_0_01001_0_000_00_01000_00111#32 = .ok (.sha1c 7 8 9) := by decide
theorem test_decode_sha1p : decode 0b01011110_00_0_00010_0_001_00_00001_00000#32 = .ok (.sha1p 0 1 2) := by decide
theorem test_decode_sha1m : decode 0b01011110_00_0_00010_0_010_00_00001_00000#32 = .ok (.sha1m 0 1 2) := by decide
theorem test_decode_sha1su0 : decode 0b01011110_00_0_00010_0_011_00_00001_00000#32 = .ok (.sha1su0 0 1 2) := by decide
theorem test_decode_sha256h : decode 0b01011110_00_0_00010_0_100_00_00001_00000#32 = .ok (.sha256h 0 1 2) := by decide
theorem test_decode_sha256h2 : decode 0b01011110_00_0_00010_0_101_00_00001_00000#32 = .ok (.sha256h2 0 1 2) := by decide
theorem test_decode_sha256su1 : decode 0b01011110_00_0_11101_0_110_00_11110_11111#32 = .ok (.sha256su1 31 30 29) := by decide
-- CRYPTO_SHA2: 01011110 size 10100 opcode 10 Rn Rd (T-E26, T-E28, T-E14)
theorem test_decode_sha1h : decode 0b01011110_00_10100_00000_10_10001_11111#32 = .ok (.sha1h 31 17) := by decide
theorem test_decode_sha1su1 : decode 0b01011110_00_10100_00001_10_01101_01100#32 = .ok (.sha1su1 12 13) := by decide
theorem test_decode_sha256su0 : decode 0b01011110_00_10100_00010_10_00001_00000#32 = .ok (.sha256su0 0 1) := by decide

/-- The words of T-E1 to T-E28 with what they decode as. -/
def encodingVectors : List (InstrWord × Instr) :=
  [(0x4E284820#32, .aese 0 1), (0x4E285862#32, .aesd 2 3), (0x4E2868A4#32, .aesmc 4 5), (0x4E2878E6#32, .aesimc 6 7),
   (0x5E020020#32, .sha1c 0 1 2), (0x5E021020#32, .sha1p 0 1 2), (0x5E022020#32, .sha1m 0 1 2)] ++
  [(0x5E023020#32, .sha1su0 0 1 2), (0x5E024020#32, .sha256h 0 1 2), (0x5E025020#32, .sha256h2 0 1 2),
   (0x5E026020#32, .sha256su1 0 1 2), (0x5E280820#32, .sha1h 0 1), (0x5E281820#32, .sha1su1 0 1),
   (0x5E282820#32, .sha256su0 0 1)] ++
  [(0x0EE2E020#32, .pmull 0 1 2), (0x4EE2E020#32, .pmull2 0 1 2), (0xD5380600#32, .mrsIdAa64isar0 0),
   (0xD53802A5#32, .mrsIdIsar5 5), (0x5E1D63DF#32, .sha256su1 31 30 29), (0x4EFFE131#32, .pmull2 17 9 31),
   (0x0EF0E01F#32, .pmull 31 0 16)] ++
  [(0xD53802BF#32, .mrsIdIsar5 31), (0xD538061E#32, .mrsIdAa64isar0 30), (0x4E284BFF#32, .aese 31 31),
   (0x4E287AAA#32, .aesimc 10 21), (0x5E280A3F#32, .sha1h 31 17), (0x5E090107#32, .sha1c 7 8 9),
   (0x5E2819AC#32, .sha1su1 12 13)]

theorem test_encoding_vectors_decode : ∀ v ∈ encodingVectors, decode v.1 = .ok v.2 := by decide

theorem test_encoding_vectors_encode : ∀ v ∈ encodingVectors, encode v.2 = v.1 := by decide

/-- T-E29 to T-E31. -/
def outsideVectors : List InstrWord :=
  [0x0E22E020#32, 0x4E22E020#32] ++
  [0x4E288800#32, 0x4E283800#32, 0x4E684800#32, 0x5E283800#32, 0x5E007000#32, 0x5E400000#32, 0x5E680800#32] ++
  [0x0E60E000#32, 0x0EA0E000#32, 0x6E284820#32, 0x2EE0E000#32, 0x5E200000#32, 0x5E008000#32, 0x5E000400#32] ++
  [0xD503201F#32, 0x00000000#32, 0xFFFFFFFF#32, 0xD5380000#32, 0xD5380620#32, 0xD53803A0#32, 0xD5180600#32, 0xCE608000#32]

theorem test_outside_vectors_refused : outsideVectors.all (fun w => refusedOutside (stepOn st w)) = true := by decide

/-- T-X7 and R87: refused, not Undefined, with the extension disabled too. -/
theorem test_outside_vectors_refused_disabled :
    outsideVectors.all (fun w => refusedOutside (stepOn (State.disabled st) w)) = true := by decide

/-- The decoder on bytes: an instruction and the rest, and too few bytes (R75, R63). -/
theorem test_decode_bytes :
    decodeBytes [0xA5, 0x02, 0x38, 0xD5, 0x77] = .ok (.mrsIdIsar5 5, [0x77]) ∧
    decodeBytes [0xA5, 0x02, 0x38] = .error .truncated := by decide

theorem test_decode_table_word :
    decodeTableWord 32 0x4E284820 = some (.aese 0 1) ∧ decodeTableWord 32 0xD503201F = none := by decide

/-! ## The MRS reads (T-M) -/

/-- T-M3: all 64 bits of the destination are written. -/
theorem test_mrs_aa64isar0_enabled :
    xAfter (stepOn (st.writeX 0 0xFFFFFFFFFFFFFFFF) 0xD5380600) 0 = some (0x0000100010211120, 0x1004) := by decide

/-- T-M4. -/
theorem test_mrs_aa64isar0_disabled :
    xAfter (stepOn ((State.disabled st).withSecure true) 0xD5380600) 0 = some (0x0000100010210000, 0x1004) := by decide

/-- T-M7: the upper half of `X5` is zeroed. -/
theorem test_mrs_isar5_enabled :
    xAfter (stepOn (st.writeX 5 0xFFFFFFFFFFFFFFFF) 0xD53802A5) 5 = some (0x0000000001011121, 0x1004) := by decide

/-- T-M8. -/
theorem test_mrs_isar5_disabled :
    xAfter (stepOn (State.disabled (State.atEl (st.writeX 5 0xFFFFFFFFFFFFFFFF) .el2)) 0xD53802A5) 5 =
      some (0x0000000001010001, 0x1004) := by decide

/-- T-M9: XZR discards the value and reads 0. -/
theorem test_mrs_xzr :
    xAfter (stepOn (st.writeX 30 7) 0xD53802BF) 31 = some (0, 0x1004) ∧
    xAfter (stepOn (st.writeX 30 7) 0xD53802BF) 30 = some (7, 0x1004) := by decide

/-- T-M10, T-M11, T-M13: at EL0 the read is Undefined, for XZR too, and before the trap premise is looked at. -/
theorem test_mrs_el0 :
    faultsWith .el0IdRead (State.atEl st .el0) 0xD5380600 = true ∧
    faultsWith .el0IdRead (State.disabled (State.atEl st .el0)) 0xD53802BF = true ∧
    faultsWith .el0IdRead (State.withParams (State.atEl st .el0) (fun p => { p with idReadsNotTrapped := false }))
      0xD5380600 = true := by decide

/-- T-M12. -/
theorem test_mrs_trapped :
    refusalOf (stepOn (State.withParams st (fun p => { p with idReadsNotTrapped := false })) 0xD5380600) =
      some .idReadTrapUnmodelled := by decide

/-! ## AES (T-A) -/

theorem test_aese_fips197 :
    vAfter (stepOn (stV [(0, 0x340737e0a29831318d305a88a8f64332), (1, 0x3c4fcf098815f7aba6d2ae2816157e2b)]) 0x4E284820) 0 =
      some 0xe598271ef11141b8ae52b4e0305dbfd4 := by decide

theorem test_aese_shift_rows :
    vAfter (exec (.aese 0 1) (stV [(0, byteRamp)])) 0 = some 0x2b6f7cfec577d7307bab01f276676b63 := by decide

theorem test_aesd_fips197 :
    vAfter (stepOn (stV [(0, 0x5ac5b47080b7cdd830047b6ad8e0c469), (1, 0xc5302b4d8ba707f3174a94e37f1d1113)]) 0x4E285820) 0 =
      some 0x89b6108b6e21610b9e77b5f23d7c6ebd := by decide

theorem test_aesd_shift_rows :
    vAfter (exec (.aesd 0 1) (stV [(0, byteRamp)])) 0 = some 0xd5a54081fb6a36bf9ed7093038a3f352 := by decide

theorem test_aesmc_fips197 :
    vAfter (stepOn (stV [(0, 0xe598271ef11141b8ae52b4e0305dbfd4)]) 0x4E286800) 0 =
      some 0x4c2606287ad3f8489a19cbe0e5816604 := by decide

theorem test_aesmc_columns :
    vAfter (exec (.aesmc 2 1) (stV [(1, 0xc6c6c6c6010101015c220af2455313db), (2, ones)])) 2 =
      some 0xc6c6c6c6010101019d58dc9fbca14d8e := by decide

theorem test_aesimc_fips197 :
    vAfter (stepOn (stV [(0, 0x89b6108b6e21610b9e77b5f23d7c6ebd)]) 0x4E287800) 0 =
      some 0x2ccfe6a18e01cb6143352ff71fb97347 := by decide

theorem test_aesimc_ramp :
    vAfter (exec (.aesimc 2 1) (stV [(1, byteRamp)])) 2 = some 0x0104030605000702090c0b0e0d080f0a := by decide

/-! ## PMULL (T-P) -/

theorem test_pmull_low_halves :
    vAfter (stepOn (stV [(0, 0xfedcba98765432100123456789abcdef), (1, 0x80000000000000000000000000000003), (2, ones)])
      0x0EE1E002) 2 = some 0x00000000000000000365cfa89afc5631 := by decide

theorem test_pmull_overlap :
    vAfter (exec (.pmull 4 4 4) (stV [(4, byteRamp)])) 4 = some 0x00150014001100100005000400010000 := by decide

theorem test_pmull2_high_halves :
    vAfter (stepOn (stV [(0, 0xfedcba98765432100123456789abcdef), (1, 0x80000000000000000000000000000003), (3, ones)])
      0x4EE1E003) 3 = some 0x7f6e5d4c3b2a19080000000000000000 := by decide

theorem test_pmull2_overlap :
    vAfter (exec (.pmull2 4 4 4) (stV [(4, byteRamp)])) 4 = some 0x00550054005100500045004400410040 := by decide

theorem test_polyMul64 :
    polyMul64 0xffffffffffffffff 0xffffffffffffffff = 0x55555555555555555555555555555555 ∧
    polyMul64 0x8000000000000000 0x8000000000000000 = 0x40000000000000000000000000000000 ∧
    polyMul64 0x0123456789abcdef 0xfedcba9876543210 = 0x00e038d8688850b040a0789828c810f0 := by decide

/-! ## SHA-1 (T-H1) -/

def sha1Abcd : Quad := 0x1032547698badcfeefcdab8967452301#128
def sha1Wk : Quad := 0x5a8279995a8279995a827999bbe4dd19#128
def sha1Start : State := stV [(0, sha1Abcd), (1, 0xffffffffffffffffffffffffc3d2e1f0), (3, sha1Wk)]
def a1 : Quad := 0x00000004000000030000000200000001#128
def a2 : Quad := 0x00000040000000300000002000000010#128
def a3 : Quad := 0x00000400000003000000020000000100#128
def allA1 : State := stV [(0, a1)]
def threeA : State := stV [(0, a1), (1, a2), (2, a3)]

theorem test_sha1c_rounds : vAfter (stepOn sha1Start 0x5E030020) 0 = some 0xc045bf0c626414dba1390f08cdd8e11b := by decide
theorem test_sha1c_overlap : vAfter (exec (.sha1c 0 0 0) allA1) 0 = some 0x0000000a000001428000a106c01420dc := by decide
theorem test_sha1p_rounds : vAfter (stepOn sha1Start 0x5E031020) 0 = some 0xb3e8508d78ba6a813df5f7679e0583aa := by decide
theorem test_sha1p_overlap : vAfter (exec (.sha1p 0 0 0) allA1) 0 = some 0xc00000092000013ac0009d3d8013ac9d := by decide
theorem test_sha1m_rounds : vAfter (stepOn sha1Start 0x5E032020) 0 = some 0xc045bf0c4261efd47e08a99ae150d70a := by decide
theorem test_sha1m_overlap : vAfter (exec (.sha1m 0 0 0) allA1) 0 = some 0x00000009c0000121000090e680121cc5 := by decide

/-- P3, step 1: the upper 96 bits of the destination are cleared. -/
theorem test_sha1h_clears :
    vAfter (stepOn (stV [(0, sha1Abcd), (2, ones)]) 0x5E280802) 2 = some 0x00000000000000000000000059d148c0 := by decide

theorem test_sha1h_overlap :
    vAfter (exec (.sha1h 9 9) (stV [(9, 0xdeadbeefdeadbeefdeadbeef00000004)])) 9 = some 1 := by decide

theorem test_sha1su0 : vAfter (stepOn threeA 0x5E023020) 0 = some 0x00000424000003130000020600000102 := by decide
theorem test_sha1su0_overlap : vAfter (exec (.sha1su0 0 0 0) allA1) 0 = some 0x00000002000000010000000400000003 := by decide
theorem test_sha1su1 : vAfter (stepOn threeA 0x5E281820) 0 = some 0x0000008c000000860000006400000042 := by decide
theorem test_sha1su1_overlap : vAfter (exec (.sha1su1 0 0) allA1) 0 = some 0x000000040000000e0000000200000006 := by decide

/-! ## SHA-256 (T-H2) -/

def sha256Abcd : Quad := 0xa54ff53a3c6ef372bb67ae856a09e667#128
def sha256Efgh : Quad := 0x5be0cd191f83d9ab9b05688c510e527f#128
def sha256Wk : Quad := 0xe9b5dba5b5c0fbcf71374491a3ec9318#128
def sha256Start : State := stV [(0, sha256Abcd), (1, sha256Efgh), (2, sha256Abcd), (3, sha256Wk)]

theorem test_sha256h_rounds : vAfter (stepOn sha256Start 0x5E034020) 0 = some 0x5d6aebcd5a6ad9adc8c347a7d550f666 := by decide
theorem test_sha256h_overlap : vAfter (exec (.sha256h 0 0 0) allA1) 0 = some 0x4428048a42ba4afa20501b1645f8d4eb := by decide
theorem test_sha256h2_rounds : vAfter (stepOn sha256Start 0x5E035041) 1 = some 0xfa2a462278ce7989f92939eb24e00850 := by decide
theorem test_sha256h2_overlap : vAfter (exec (.sha256h2 0 0 0) allA1) 0 = some 0x0420008b2d704189b1d0ac28f4f76d8e := by decide
theorem test_sha256su0 : vAfter (stepOn threeA 0x5E282820) 0 = some 0x20040006080100030600c00204008001 := by decide
theorem test_sha256su0_overlap : vAfter (exec (.sha256su0 0 0) allA1) 0 = some 0x02004004080100030600c00204008001 := by decide
theorem test_sha256su1 : vAfter (stepOn threeA 0x5E026020) 0 = some 0x001f42140014d90f0280003301e00021 := by decide
theorem test_sha256su1_overlap : vAfter (exec (.sha256su1 0 0 0) allA1) 0 = some 0x100220a6cc01e07f000280050001e003 := by decide

/-! ## Exceptions and refusals (T-X) -/

/-- The sixteen words of T-X1. -/
def cryptoWords : List InstrWord :=
  [0x4E284820#32, 0x4E285862#32, 0x4E2868A4#32, 0x4E2878E6#32, 0x5E020020#32, 0x5E021020#32, 0x5E022020#32, 0x5E023020#32] ++
  [0x5E024020#32, 0x5E025020#32, 0x5E026020#32, 0x5E280820#32, 0x5E281820#32, 0x5E282820#32, 0x0EE2E020#32, 0x4EE2E020#32]

/-- T-X1. -/
theorem test_disabled_all : cryptoWords.all (faultsWith .cryptoDisabled (State.disabled st)) = true := by decide

/-- T-X2, T-X3, T-X5. -/
theorem test_disabled_causes :
    faultsWith .cryptoDisabled (State.atEl (State.withParams st (fun p => { p with cryptoPresent := false })) .el3) 0x4E284820 = true ∧
    faultsWith .cryptoDisabled (State.disabled (State.atEl st .el0)) 0x5E280820 = true ∧
    faultsWith .cryptoDisabled (State.withParams (State.disabled st) (fun p => { p with simdAccessEnabled := false })) 0x4E284820 =
      true := by decide

/-- T-X4. -/
theorem test_crypto_at_el0 :
    vAfter (stepOn (State.atEl st .el0) 0x4E284820) 0 = some 0x63636363636363636363636363636363 := by decide

/-- T-X6. -/
theorem test_simd_trapped :
    refusalOf (stepOn (State.withParams st (fun p => { p with simdAccessEnabled := false })) 0x4E284820) =
      some .simdTrapUnmodelled := by decide

/-- T-X9, T-X10, and the successful end of a run (R188). -/
theorem test_fetch_stops :
    refusalOf (step { st with pc := 0x1002 }) = some .pcMisaligned ∧
    faultOf (step (State.withParams { st with pc := 0x1004, mem := textMemory [(0x1000, 0x4E284820)] }
      (fun p => { p with endPc := 0x2000 }))) = some (.fetchOutsideText 0x1004) ∧
    refusalOf (step (State.withParams { st with pc := 0x2000 } (fun p => { p with endPc := 0x2000 }))) = some .runEnded := by decide

/-- R24: the last word of the address space is refused, the word before it completes. -/
theorem test_pc_wrap :
    refusalOf (stepOn { st with pc := 0xFFFFFFFFFFFFFFFC } 0x4E284820) = some .pcWrap ∧
    refusalOf (stepOn { st with pc := 0xFFFFFFFFFFFFFFFC } 0xD5380600) = some .pcWrap ∧
    completes (stepOn { st with pc := 0xFFFFFFFFFFFFFFF8 } 0x4E284820) = true := by decide

/-- Where the exception goes (R156, R158): the level, `pc`, and the return address. -/
def entry (r : Result) (l : HandlerLevel) : Option (EL × Word × Word × Syndrome) :=
  match r with
  | .next t => some (t.currentEl, t.pc, (t.bank l).elr, (t.bank l).esr)
  | _ => none

/-- A handled launch with a vector base at each level. -/
def handledSt : State :=
  let s := State.handled (State.disabled st)
  { s with
    el1 := { s.el1 with vbar := 0x10000 }, el2 := { s.el2 with vbar := 0x20000 }, el3 := { s.el3 with vbar := 0x30000 } }

theorem test_entry_from_el0 :
    entry (stepOn (State.atEl handledSt .el0) 0x4E284820) .el1 = some (.el1, 0x10400, 0x1000, ⟨0, true, 0⟩) ∧
    entry (stepOn (State.withParams (State.atEl handledSt .el0) (fun p => { p with hcrTge := true })) 0xD5380600) .el2 =
      some (.el2, 0x20400, 0x1000, ⟨0, true, 0⟩) := by decide

theorem test_entry_same_level :
    entry (stepOn (State.atEl handledSt .el2) 0x4E284820) .el2 = some (.el2, 0x20200, 0x1000, ⟨0, true, 0⟩) ∧
    entry (stepOn { State.atEl handledSt .el3 with pstate := { PState.reset with spSel := false } } 0x4E284820) .el3 =
      some (.el3, 0x30000, 0x1000, ⟨0, true, 0⟩) := by decide

/-- R160, R166: a return to a lower level completes; at EL0, and to a higher level, none is described. -/
theorem test_exception_return :
    completes (exceptionReturn st) = true ∧
    refusalOf (exceptionReturn (State.atEl st .el0)) = some .illegalExceptionReturn ∧
    refusalOf (exceptionReturn { st with el1 := { st.el1 with spsr := PState.reset } }) = some .illegalExceptionReturn := by decide

/-! ## Memory, reset and launch -/

theorem test_reset_memory_canonical : State.reset.mem.wf = true := by decide

/-- Writing four bytes over a word, out of order, keeps the form and the neighbours. -/
theorem test_memory_overwrite :
    (textMemory [(0x1004, 0x4E286800), (0x1000, 0xD5380600), (0x1004, 0x4E284820)]) =
      [(0x1000, 0x00), (0x1001, 0x06), (0x1002, 0x38), (0x1003, 0xD5), (0x1004, 0x20), (0x1005, 0x48), (0x1006, 0x28),
        (0x1007, 0x4E)] := by decide

/-- The state after reset runs a word placed at its program counter as its first step (P1a). -/
theorem test_first_step_after_reset :
    xAfter (step (State.reset.withFetchWord 32 0xD5380600)) 0 = some (0x0000100010211120, 4) := by decide

/-- The launch of program P1 with the given word, level and level of CRYPTODISABLE. -/
def launchP1 (el : EL) (disable : Bool) : Launch :=
  { params := { Params.reset with secure := false, cryptodisableAtReset := disable, endPc := 0x100C }, currentEl := el,
    text := [(0x1000, 0xD5380600), (0x1004, 0x4E284820), (0x1008, 0x4E286800)], pc := 0x1000,
    x := Vector.replicate 31 0, v := Vector.replicate 32 0 }

/-- P1a and P1c, the first step. -/
theorem test_launch_p1 :
    xAfter (step (launchP1 .el1 false).start) 0 = some (0x0000100010211120, 0x1004) ∧
    faultOf (step (launchP1 .el0 false).start) = some (.undefined .el0IdRead 0x1000 0xD5380600) := by decide

/-- R180: reset samples CRYPTODISABLE. -/
theorem test_reset_samples :
    (State.reset.sampleCryptodisable true).idIsar5 = 0x01010001 ∧ (State.reset.sampleCryptodisable false).idIsar5 = 0x01011121 := by
  decide

/-! ## Witnesses: the hypotheses of each statement that has some are met together, at the ends of their ranges -/

theorem next_of_completes {r : Result} (h : completes r = true) : ∃ t, r = .next t := by
  cases r with
  | next t => exact ⟨t, rfl⟩
  | fault _ => simp [completes] at h
  | refused _ => simp [completes] at h

/-- A state whose program text, at 0x1000, is one word. -/
def oneWord (s : State) (w : InstrWord) : State := { s with mem := textMemory [(0x1000, w)] }

/-- The last program counter from which an instruction completes, and the last from which two do. -/
def lastPc : Word := 0xFFFFFFFFFFFFFFF8#64
def lastPcOfTwo : Word := 0xFFFFFFFFFFFFFFF4#64

theorem test_witness_DecodeOfEncode :
    (Instr.sha256su1 31 31 31).WellFormed = true ∧ (Instr.mrsIdIsar5 0).WellFormed = true := by decide

theorem test_witness_EncodeOfDecode : decode 0x5E1F63FF#32 = .ok (.sha256su1 31 31 31) := by decide

theorem test_witness_OpcodeRowsDisjoint :
    (∃ r ∈ opcodeTable, r.selects 0x4E284BFF#32 = true) ∧ (∀ r ∈ opcodeTable, r.selects 0xD503201F#32 = false) := by decide

theorem test_witness_OutsideWordRefused :
    let s := oneWord (State.disabled st) 0x0E22E020#32
    pcAligned s.pc = true ∧ s.pc ≠ s.params.endPc ∧ s.mem.fetchWord s.pc = some 0x0E22E020#32 ∧
    ∀ r ∈ opcodeTable, 0x0E22E020#32 &&& r.mask ≠ r.pattern := by decide

theorem test_witness_StepRunsDecodedInstruction :
    let s := oneWord st 0x4E284BFF#32
    pcAligned s.pc = true ∧ s.pc ≠ s.params.endPc ∧ s.mem.fetchWord s.pc = some 0x4E284BFF#32 ∧
    decode 0x4E284BFF#32 = .ok (.aese 31 31) := by decide

theorem test_witness_FetchIsLittleEndian :
    let m := textMemory [(0xFFFFFFFFFFFFFFFC, 0x4E284820)]
    let a : Word := 0xFFFFFFFFFFFFFFFC
    m.readByte a.toNat = some 0x20 ∧ m.readByte (a.toNat + 1) = some 0x48 ∧ m.readByte (a.toNat + 2) = some 0x28 ∧
    m.readByte (a.toNat + 3) = some 0x4E := by decide

/-- One state for each clause of the fetch's stops; in the third, three of the four bytes are there; and a misaligned `pc` that is
`end_pc`, which is the first clause's (notes/assumptions/17.md). -/
theorem test_witness_FetchStops :
    (({ st with pc := 0x1001 } : State).pc.toNat % 4 ≠ 0) ∧
    (let s := State.withParams st (fun p => { p with endPc := 0x1000 })
     s.pc.toNat % 4 = 0 ∧ s.pc = s.params.endPc) ∧
    (let s : State := { st with mem := [(0x1000, 0x20), (0x1001, 0x48), (0x1002, 0x28)] }
     s.pc.toNat % 4 = 0 ∧ s.pc ≠ s.params.endPc ∧ s.mem.readByte (s.pc.toNat + 3) = none) ∧
    (let s := State.withParams { st with pc := 0x1003 } (fun p => { p with endPc := 0x1003 })
     s.pc.toNat % 4 ≠ 0 ∧ s.pc = s.params.endPc ∧ refusalOf (step s) = some .pcMisaligned) := by decide

theorem test_witness_MrsCompletes :
    0 < 32 ∧ 30 < 32 ∧ 31 < 32 ∧ State.reset.IdReadReady ∧ (State.atEl st .el1).IdReadReady ∧ (State.atEl st .el2).IdReadReady ∧
    (State.atEl (st.withSecure true) .el3).IdReadReady ∧ ({ st with pc := lastPc } : State).IdReadReady := by decide

theorem test_witness_MrsAtEl0RaisesUndefined :
    (State.atEl st .el0).currentEl = .el0 ∧ (State.atEl st .el0).params.undefinedOutcome = .endsRun ∧
    (State.atEl handledSt .el0).currentEl = .el0 ∧ (State.atEl handledSt .el0).params.undefinedOutcome = .entersHandler := by
  decide

/-- A step that answers a next state, and one that takes an exception: the witnesses of the statements about any step. -/
theorem test_witness_step_next :
    (∃ t, step (oneWord st 0x4E284820) = .next t) ∧ (∃ t, step (oneWord handledSt 0x4E284820) = .next t) ∧
    (oneWord st 0x4E284820).params.undefinedOutcome = .endsRun :=
  ⟨next_of_completes (by decide), next_of_completes (by decide), by decide⟩

theorem test_witness_AnnouncedExactlyWhenDefined :
    st.params.undefinedOutcome = .endsRun ∧ (State.disabled st).params.undefinedOutcome = .endsRun ∧
    (Instr.pmull2 31 0 31).family = .aes ∧ (Instr.sha1h 0 31).family = .sha1 ∧ (Instr.sha256su0 0 31).family = .sha2 := by decide

/-- The hypothesis of every completion statement of a cryptographic instruction, at each level and at the last `pc`. -/
theorem test_witness_CryptoReady :
    0 < 32 ∧ 31 < 32 ∧ State.reset.CryptoReady ∧ (State.atEl st .el0).CryptoReady ∧ st.CryptoReady ∧ (State.atEl st .el2).CryptoReady ∧
    ({ st with pc := lastPc } : State).CryptoReady := by decide

/-- The hypotheses of the statements of two instructions in a row, at the last `pc` from which two complete: AESE and AESD with
registers 0 and 31, and the registers of the spec's programs P2 and P3. -/
theorem test_witness_two_instructions :
    let s : State := { sha256Start with pc := lastPcOfTwo }
    s.CryptoReady ∧ s.pc.toNat + 8 < 2 ^ 64 ∧
    (0 < 32 ∧ 31 < 32 ∧ 0 ≠ 31 ∧ s.readV 31 = 0) ∧
    (4 < 32 ∧ 5 < 32 ∧ 6 < 32 ∧ 7 < 32 ∧ 4 ≠ 6 ∧ 4 ≠ 7) ∧
    (2 < 32 ∧ 3 < 32 ∧ 2 ≠ 0 ∧ 2 ≠ 1 ∧ 2 ≠ 3) ∧
    (0 ≠ 1 ∧ 0 ≠ 2 ∧ 0 ≠ 3 ∧ s.readV 2 = s.readV 0) := by decide

theorem test_witness_SboxIsInverseThenAffine : (0x53 : Byte) ≠ 0 ∧ gfMul 0x53 0xca = 1 ∧ gfMul 1 1 = 1 := by decide

theorem test_witness_DisabledCryptoRaisesUndefined :
    let absent := State.withParams st (fun p => { p with cryptoPresent := false })
    (Instr.pmull 0 0 0).isCrypto = true ∧ absent.params.cryptoPresent = false ∧ absent.params.undefinedOutcome = .endsRun ∧
    handledSt.params.cryptodisableAtReset = true ∧ handledSt.params.undefinedOutcome = .entersHandler := by decide

theorem test_witness_OnlyTwoUndefinedCauses :
    faultOf (exec (.aese 0 1) (State.disabled st)) = some (.undefined .cryptoDisabled 0x1000 0x4E284820) ∧
    faultOf (exec (.mrsIdIsar5 31) (State.atEl st .el0)) = some (.undefined .el0IdRead 0x1000 0xD53802BF) := by decide

theorem test_witness_FaultRecordsPcAndWord :
    faultOf (step (oneWord (State.disabled st) 0x4E284820)) = some (.undefined .cryptoDisabled 0x1000 0x4E284820) := by decide

theorem test_witness_FalsePremisesRefused :
    (let s := State.withParams st (fun p => { p with simdAccessEnabled := false })
     (Instr.sha1h 0 0).isCrypto = true ∧ s.cryptoEnabled = true ∧ s.params.simdAccessEnabled = false) ∧
    (let s := State.withParams st (fun p => { p with idReadsNotTrapped := false })
     (Instr.mrsIdIsar5 0).isCrypto = false ∧ s.currentEl ≠ .el0 ∧ s.params.idReadsNotTrapped = false) ∧
    (let s : State := { st with pc := 0xFFFFFFFFFFFFFFFC }
     s.cryptoEnabled = true ∧ s.params.simdAccessEnabled = true ∧ s.currentEl ≠ .el0 ∧ s.params.idReadsNotTrapped = true ∧
     s.pc.toNat + 4 ≥ 2 ^ 64) := by decide

/-- The three routes of the exception, and the two stack-pointer selects. -/
theorem test_witness_UndefinedEntry :
    ((State.atEl st .el0).currentEl = .el0 ∧ (State.atEl st .el0).params.hcrTge = false) ∧
    (let s := State.withParams (State.atEl st .el0) (fun p => { p with hcrTge := true })
     s.currentEl = .el0 ∧ s.params.hcrTge = true) ∧
    (State.atEl st .el2).currentEl = HandlerLevel.el2.toEL ∧
    (State.reset.currentEl ≠ .el0 ∧ State.reset.pstate.spSel = true) ∧
    (({ st with pstate := { st.pstate with spSel := false } } : State).currentEl ≠ .el0 ∧
      ({ st with pstate := { st.pstate with spSel := false } } : State).pstate.spSel = false) := by decide

theorem test_witness_EntryFrame :
    HandlerLevel.el2.toEL ≠ (takeException undefinedSyndrome st).currentEl ∧
    HandlerLevel.el3.toEL ≠ (takeException undefinedSyndrome st).currentEl := by decide

theorem test_witness_CryptoFrame :
    vDest (.sha1h 31 0) = some 31 ∧ st.cryptoEnabled = true ∧ ∃ t, exec (.sha1h 31 0) st = .next t :=
  ⟨rfl, by decide, next_of_completes (by decide)⟩

theorem test_witness_IdReadFrame :
    xDest (.mrsIdIsar5 31) = some 31 ∧ st.currentEl ≠ .el0 ∧ ∃ t, exec (.mrsIdIsar5 31) st = .next t :=
  ⟨rfl, by decide, next_of_completes (by decide)⟩

theorem test_witness_CryptoIgnoresXRegisters : (Instr.aese 0 1).isCrypto = true := by decide

theorem test_witness_WrittenWordIsFetched :
    (textMemory [(0x1000, 0x4E284820)]).wf = true ∧ (0xFFFFFFFFFFFFFFFC : Word).toNat + 4 ≤ 2 ^ 64 := by decide

theorem test_witness_PlacedInstructionRuns :
    (oneWord st 0xD5380600).mem.wf = true ∧ (Instr.aese 31 31).WellFormed = true := by decide

theorem test_witness_ResetSamplesCryptodisable :
    st.sampleCryptodisable true ∈ clusterReset true [State.reset, st] ∧
    (∃ t, step ((oneWord st 0xD5380600).sampleCryptodisable true) = .next t) ∧
    (∃ t, step ((oneWord st 0x4E284820).sampleCryptodisable false) = .next t) :=
  ⟨List.mem_cons_of_mem _ (List.mem_cons_self ..), next_of_completes (by decide), next_of_completes (by decide)⟩

theorem test_witness_LaunchMeetsInvariant :
    pcAligned (launchP1 .el1 false).pc = true ∧ (launchP1 .el1 false).TextIsMap ∧
    (0x1008, 0x4E286800) ∈ (launchP1 .el1 false).text ∧
    pcAligned 0x100C = true ∧ ∀ e ∈ (launchP1 .el1 false).text, e.1 ≠ 0x100C :=
  ⟨by decide, ⟨by simp [launchP1], by simp [launchP1, pcAligned]⟩, .tail _ (.tail _ (.head _)), by decide, by simp [launchP1]⟩

theorem test_witness_StepKeepsInvariant :
    (oneWord st 0x4E284820).Inv ∧ ∃ t, step (oneWord st 0x4E284820) = .next t :=
  ⟨⟨by decide, by decide, by decide, by decide, by decide⟩, next_of_completes (by decide)⟩

theorem test_witness_EnabledRunNeverUndefined :
    st.cryptoEnabled = true ∧ st.currentEl ≠ .el0 ∧ ∃ t, step (oneWord st 0x4E284820) = .next t ∧ Reaches (oneWord st 0x4E284820) t := by
  obtain ⟨t, h⟩ := next_of_completes (r := step (oneWord st 0x4E284820)) (by decide)
  exact ⟨by decide, by decide, t, h, .step (.refl _) h⟩

/-- A run of three instructions, and a run of none. -/
theorem test_witness_StraightLineRun :
    (let s := (launchP1 .el1 false).start
     s.params.undefinedOutcome = .endsRun ∧ pcAligned s.pc = true ∧ s.pc.toNat + 4 * 3 < 2 ^ 64 ∧
     s.params.endPc = s.pc + BitVec.ofNat 64 (4 * 3)) ∧
    (let s := State.withParams { st with pc := 0xFFFFFFFFFFFFFFFC } (fun p => { p with endPc := 0xFFFFFFFFFFFFFFFC })
     s.params.undefinedOutcome = .endsRun ∧ pcAligned s.pc = true ∧ s.pc.toNat + 4 * 0 < 2 ^ 64 ∧
     s.params.endPc = s.pc + BitVec.ofNat 64 (4 * 0)) := by decide

end Sys2Proof.Tests
end

/-! PROOFS of the family `00_scope.md`: the Security state changes no outcome (O14), and a word written to memory is
fetched back (O52). -/

namespace Sys2Proof.Machine

/-! ## The state with another Security state: one rule per operation -/

section WithSecure

variable (s : State) (b : Bool)

@[simp] theorem State.withSecure_pc : (s.withSecure b).pc = s.pc := rfl

@[simp] theorem State.withSecure_mem : (s.withSecure b).mem = s.mem := rfl

@[simp] theorem State.withSecure_endPc : (s.withSecure b).params.endPc = s.params.endPc := rfl

@[simp] theorem State.withSecure_undefinedOutcome :
    (s.withSecure b).params.undefinedOutcome = s.params.undefinedOutcome := rfl

@[simp] theorem State.withSecure_simdAccessEnabled :
    (s.withSecure b).params.simdAccessEnabled = s.params.simdAccessEnabled := rfl

@[simp] theorem State.withSecure_idReadsNotTrapped :
    (s.withSecure b).params.idReadsNotTrapped = s.params.idReadsNotTrapped := rfl

@[simp] theorem State.withSecure_cryptoEnabled : (s.withSecure b).cryptoEnabled = s.cryptoEnabled := rfl

@[simp] theorem State.withSecure_currentEl : (s.withSecure b).currentEl = s.currentEl := rfl

theorem State.writeV_withSecure (d : Nat) (r : Quad) : (s.withSecure b).writeV d r = (s.writeV d r).withSecure b := by
  unfold State.writeV
  split <;> rfl

theorem State.writeX_withSecure (t : Nat) (val : Word) : (s.withSecure b).writeX t val = (s.writeX t val).withSecure b := by
  unfold State.writeX
  split <;> rfl

/-- Completing an instruction reads only `pc` (10_state.md R24). -/
theorem advance_withSecure : advance (s.withSecure b) = onNext (·.withSecure b) (advance s) := by
  rcases advance_cases s with ⟨hp, ha⟩ | ⟨hp, ha⟩ <;> rw [ha]
  · exact advance_next (s.withSecure b) hp
  · exact if_neg (Nat.not_lt.mpr hp)

/-- The target level and the vector depend on the level and on HCR_EL2.TGE, not on the Security state
(60_exceptions.md R156, R158). -/
theorem takeException_withSecure (esr : Syndrome) :
    takeException esr (s.withSecure b) = (takeException esr s).withSecure b := by
  have ht : (s.withSecure b).exceptionTarget = s.exceptionTarget := rfl
  simp only [takeException, ht]
  cases s.exceptionTarget <;> rfl

theorem raiseUndefined_withSecure (info : UndefinedInfo) (w : InstrWord) :
    raiseUndefined info w (s.withSecure b) = onNext (·.withSecure b) (raiseUndefined info w s) := by
  unfold raiseUndefined
  rw [State.withSecure_undefinedOutcome]
  cases s.params.undefinedOutcome
  case endsRun => rfl
  case entersHandler => exact congrArg Host.Outcome.next (takeException_withSecure s b _)

/-- Neither test of `CheckCrypto()` reads the Security state (60_exceptions.md R150). -/
theorem cryptoWrite_withSecure (i : Instr) (d : Nat) (r : Quad) :
    cryptoWrite i d r (s.withSecure b) = onNext (·.withSecure b) (cryptoWrite i d r s) := by
  simp only [cryptoWrite, checkCrypto, State.withSecure_cryptoEnabled, State.withSecure_simdAccessEnabled,
    State.writeV_withSecure, advance_withSecure, raiseUndefined_withSecure]
  split
  · rfl
  · split <;> rfl

/-- The accessibility table has the same row for both Security states (40_id_register_read.md R99). -/
theorem idReadAllowed_secure_irrelevant (el : EL) (b c : Bool) : idReadAllowed el b = idReadAllowed el c := rfl

theorem readIdRegister_withSecure (i : Instr) (t : Nat) (val : Word) :
    readIdRegister i t val (s.withSecure b) = onNext (·.withSecure b) (readIdRegister i t val s) := by
  simp only [readIdRegister, idReadAllowed_secure_irrelevant _ (s.withSecure b).params.secure s.params.secure,
    State.withSecure_currentEl, State.withSecure_idReadsNotTrapped,
    State.writeX_withSecure, advance_withSecure, raiseUndefined_withSecure]
  split
  · rfl
  · split <;> rfl

/-- Every instruction is `readIdRegister` of a value, or `cryptoWrite` of a result, that the Security state is no part of. -/
theorem exec_withSecure (i : Instr) : exec i (s.withSecure b) = onNext (·.withSecure b) (exec i s) := by
  cases i with
  | mrsIdAa64isar0 | mrsIdIsar5 => exact readIdRegister_withSecure s b _ _ _
  | aese | aesd | aesmc | aesimc | pmull | pmull2 | sha1c | sha1p | sha1m | sha1h | sha1su0 | sha1su1 | sha256h | sha256h2
  | sha256su0 | sha256su1 => exact cryptoWrite_withSecure s b _ _ _

/-- The fetch reads `pc`, `end_pc` and the memory, not the Security state (20_memory.md R61, R65). -/
theorem fetch_withSecure {run run' : InstrWord → Result} (h : ∀ w, run' w = onNext (·.withSecure b) (run w)) :
    fetch (s.withSecure b) run' = onNext (·.withSecure b) (fetch s run) := by
  rcases fetch_cases s run with ⟨ha, hf⟩ | ⟨ha, he, hf⟩ | ⟨ha, he, hm, hf⟩ | ⟨w, ha, he, hm, hf⟩ <;> rw [hf]
  · simp [fetch, ha, onNext]
  · simp [fetch, ha, ← he, onNext]
  · simp [fetch, ha, he, hm, onNext]
  · simp [fetch, ha, he, hm, h]

end WithSecure

/-- Decoding depends on the word alone, so it carries a change of the next state through (30_encoding.md R84). -/
theorem decodeAndRun_onNext {f : State → State} {run run' : Instr → Result} (h : ∀ i, run' i = onNext f (run i))
    (w : InstrWord) : decodeAndRun w run' = onNext f (decodeAndRun w run) := by
  unfold decodeAndRun
  cases decode w with
  | ok i => exact h i
  | error why => rfl

/-- Settles O14: the fetch, the decoder and every instruction commute with a change of the Security state. -/
theorem securityStateChangesNothing : Obligations.SecurityStateChangesNothing := by
  intro s b
  exact fetch_withSecure s b (decodeAndRun_onNext (exec_withSecure s b))

/-! ## A word written to memory -/

/-- The byte at any address after a write of one byte to a memory in canonical form. -/
theorem Memory.readByte_writeByte (m : Memory) {addr : Nat} (val : Byte) (hm : m.wf = true)
    (ha : addr < Config.addressCount) (k : Nat) :
    (m.writeByte addr val).readByte k = if k = addr then some val else m.readByte k := by
  split
  case isTrue h => rw [h, Memory.readByte_writeByte_same m val ha]
  case isFalse h => exact Memory.readByte_writeByte_ne m val hm h

/-- Byte writes at the offsets `l` from `addr`, where `val i` is the byte at offset `i`: an offset of `l` then holds its
byte, and any other holds what it held. -/
theorem Memory.readByte_foldl_writeByte (m : Memory) (addr : Nat) (val : Nat → Byte) (l : List Nat) (hm : m.wf = true)
    (hl : ∀ i ∈ l, addr + i < Config.addressCount) (i : Nat) :
    (l.foldl (fun m i => m.writeByte (addr + i) (val i)) m).readByte (addr + i) =
      if i ∈ l then some (val i) else m.readByte (addr + i) := by
  induction l generalizing m with
  | nil => simp
  | cons j rest ih =>
    obtain ⟨hj, hrest⟩ := List.forall_mem_cons.1 hl
    rw [List.foldl_cons, ih _ (Memory.writeByte_wf m _ _ hm) hrest, Memory.readByte_writeByte m _ hm hj]
    by_cases hij : i = j <;> simp [hij]

/-- `MemWrite` puts byte `i` of the value at `addr + i` (00_scope.md R14, 20_memory.md R63). -/
theorem Memory.readByte_write_inside (m : Memory) {addr n i : Nat} (val : BitVec (8 * n)) (hm : m.wf = true)
    (ha : addr + n ≤ Config.addressCount) (hi : i < n) :
    (m.write addr n val).readByte (addr + i) = some (val.extractLsb' (8 * i) 8) := by
  have hl : ∀ j ∈ List.range n, addr + j < Config.addressCount := fun j hj =>
    Nat.lt_of_lt_of_le (Nat.add_lt_add_left (List.mem_range.1 hj) addr) ha
  exact (Memory.readByte_foldl_writeByte m addr _ _ hm hl i).trans (if_pos (List.mem_range.2 hi))

/-- `MemWrite` leaves every byte outside its `n` alone. -/
theorem Memory.readByte_write_outside (m : Memory) {addr n k : Nat} (val : BitVec (8 * n)) (hm : m.wf = true)
    (hk : k < addr ∨ addr + n ≤ k) : (m.write addr n val).readByte k = m.readByte k := by
  have hl : ∀ i ∈ List.range n, k ≠ addr + i := fun i hi => by
    have := List.mem_range.1 hi
    omega
  unfold Memory.write
  generalize List.range n = l at hl ⊢
  induction l generalizing m with
  | nil => rfl
  | cons i rest ih =>
    obtain ⟨hi, hrest⟩ := List.forall_mem_cons.1 hl
    rw [List.foldl_cons, ih _ (Memory.writeByte_wf m _ _ hm) hrest, Memory.readByte_writeByte_ne m _ hm hi]

/-- A word is put together again from its four bytes (20_memory.md R63). -/
theorem wordOfBytes_extractLsb' (w : InstrWord) :
    wordOfBytes (w.extractLsb' 0 8) (w.extractLsb' 8 8) (w.extractLsb' 16 8) (w.extractLsb' 24 8) = w := by
  apply BitVec.eq_of_getLsbD_eq
  intro j hj
  simp only [wordOfBytes, BitVec.getLsbD_append, BitVec.getLsbD_extractLsb']
  interval_cases j <;> rfl

/-- A word written to a memory in canonical form is fetched back. -/
theorem Memory.fetchWord_write (m : Memory) (a : Word) (w : InstrWord) (hm : m.wf = true)
    (ha : a.toNat + 4 ≤ Config.addressCount) : (m.write a.toNat 4 w).fetchWord a = some w := by
  have hbyte {i : Nat} (hi : i < 4) := Memory.readByte_write_inside m (n := 4) w hm ha hi
  rw [Memory.fetchWord_of_bytes _ a (hbyte (i := 0) (by decide)) (hbyte (i := 1) (by decide))
    (hbyte (i := 2) (by decide)) (hbyte (i := 3) (by decide)), wordOfBytes_extractLsb']

/-- Settles O52: the four bytes are read back and make the word, the canonical form is kept, and no other byte is written. -/
theorem writtenWordIsFetched : Obligations.WrittenWordIsFetched := by
  intro m a w hm ha
  exact ⟨Memory.fetchWord_write m a w hm ha, Memory.write_wf m _ _ _ hm,
    fun k hk => Memory.readByte_write_outside m w hm hk⟩

end Sys2Proof.Machine

/-! PROOFS of the family `10_state.md`: the identification registers field by field (O9, O10) and over every step (O15), the
process state over every step (O48), the frames of the eighteen instructions (O49, O50), and the X registers, which no
cryptographic instruction reads (O51). -/

namespace Sys2Proof.Machine

/-! ## The identification registers -/

/-- Settles O9: the state enters the register through `crypto_enabled` alone, and each of its two values is computed. -/
theorem idAa64isar0Value : Obligations.IdAa64isar0Value := by
  intro s enabled r
  have hr : r = Machine.idAa64isar0 enabled := rfl
  clear_value r enabled
  subst hr
  cases enabled
  case false => decide
  case true => decide

/-- Settles O10: the state enters the register through `crypto_enabled` alone, and each of its two values is computed. -/
theorem idIsar5Value : Obligations.IdIsar5Value := by
  intro s enabled r
  have hr : r = Machine.idIsar5 enabled := rfl
  clear_value r enabled
  subst hr
  cases enabled
  case false => decide
  case true => decide

/-- Both registers are read from the launch parameters (10_state.md R27, R40, R50). -/
theorem State.idRegisters_congr {s t : State} (h : t.params = s.params) :
    t.idAa64isar0 = s.idAa64isar0 ∧ t.idIsar5 = s.idIsar5 := by
  have he : t.cryptoEnabled = s.cryptoEnabled := by rw [State.cryptoEnabled, h, State.cryptoEnabled]
  exact ⟨congrArg Machine.idAa64isar0 he, congrArg Machine.idIsar5 he⟩

/-- A value read at the external register's address is the register's (60_exceptions.md R170). -/
theorem State.eq_idAa64isar0_of_externalRead {s : State} {a v : Word} (h : s.externalRead a = some v) :
    v = s.idAa64isar0 := by
  unfold State.externalRead at h
  split at h
  · exact (Option.some.inj h).symm
  · nomatch h

/-- No instruction changes a launch parameter (00_scope.md R8). -/
theorem exec_next_params {i : Instr} {s t : State} (h : exec i s = .next t) : t.params = s.params := by
  rcases exec_next_cases h with ⟨_, _, d, r, rfl⟩ | ⟨_, _, r, val, rfl⟩ | ⟨_, rfl⟩
  · exact State.writeV_params s d r
  · exact State.writeX_params s r val
  · exact takeException_params _ s

theorem step_next_params {s t : State} (h : step s = .next t) : t.params = s.params := by
  obtain ⟨_, _, _, _, _, _, hexec⟩ := step_next_cases h
  exact exec_next_params hexec

/-- Settles O15: the registers are read from the launch parameters, which every step keeps. -/
theorem idRegistersNeverChange : Obligations.IdRegistersNeverChange := by
  intro s t h
  obtain ⟨hisar0, hisar5⟩ := State.idRegisters_congr (step_next_params h)
  have hread (a : Word) : t.externalRead a = s.externalRead a := by
    rw [State.externalRead, hisar0, State.externalRead]
  exact ⟨hisar0, hisar5, fun a => ⟨hread a, fun v hv => State.eq_idAa64isar0_of_externalRead ((hread a).trans hv)⟩⟩

/-! ## The process state over a step -/

/-- An exception is taken to the current level, or to a higher one (60_exceptions.md R156, R166). -/
theorem State.rank_le_exceptionTarget (s : State) : s.currentEl.rank ≤ s.exceptionTarget.toEL.rank := by
  unfold State.currentEl State.exceptionTarget
  cases s.pstate.el
  case el0 => exact Nat.zero_le _
  case el1 | el2 | el3 => exact Nat.le_refl _

/-- Settles O48: an instruction that completes writes one register and `pc`; the other next state is the exception's entry. -/
theorem stepsKeepProcessState : Obligations.StepsKeepProcessState := by
  intro s t h
  obtain ⟨_, _, _, _, _, _, hexec⟩ := step_next_cases h
  rcases exec_next_cases hexec with ⟨_, _, d, r, rfl⟩ | ⟨_, _, r, val, rfl⟩ | ⟨ho, rfl⟩
  · simp [State.currentEl]
  · simp [State.currentEl]
  · exact ⟨s.rank_le_exceptionTarget, .inr ⟨ho, rfl⟩⟩

/-! ## The frames of the instructions -/

/-- An instruction with a destination V register is `cryptoWrite` of a result to that register (10_state.md R54). -/
theorem exec_of_vDest {i : Instr} {d : Nat} (h : vDest i = some d) (s : State) : ∃ r, exec i s = cryptoWrite i d r s := by
  cases i with
  | mrsIdAa64isar0 | mrsIdIsar5 => nomatch h
  | aese | aesd | aesmc | aesimc | pmull | pmull2 | sha1c | sha1p | sha1m | sha1h | sha1su0 | sha1su1 | sha256h | sha256h2
  | sha256su0 | sha256su1 =>
    obtain rfl := Option.some.inj h
    exact ⟨_, rfl⟩

/-- An instruction with a destination X register is a read of an ID register into that register
(40_id_register_read.md R95). -/
theorem exec_of_xDest {i : Instr} {r : Nat} (h : xDest i = some r) (s : State) :
    ∃ val, exec i s = readIdRegister i r val s := by
  cases i with
  | mrsIdAa64isar0 | mrsIdIsar5 =>
    obtain rfl := Option.some.inj h
    exact ⟨_, rfl⟩
  | _ => nomatch h

/-- A cryptographic instruction that answers a next state with the extension enabled completes. -/
theorem cryptoWrite_next_of_enabled {i : Instr} {d : Nat} {r : Quad} {s t : State} (he : s.cryptoEnabled = true)
    (h : cryptoWrite i d r s = .next t) : t = { s.writeV d r with pc := s.pc + 4 } := by
  rcases cryptoWrite_cases i d r s with ⟨hoff, _⟩ | ⟨_, _, hc⟩ | ⟨_, _, _, hc⟩ | ⟨_, hc⟩
  · exact absurd (he.symm.trans hoff) (by decide)
  · nomatch hc.symm.trans h
  · nomatch hc.symm.trans h
  · exact Host.Outcome.next.inj (h.symm.trans hc)

/-- A read of an ID register that answers a next state above EL0 completes. -/
theorem readIdRegister_next_of_ne_el0 {i : Instr} {r : Nat} {val : Word} {s t : State} (hel : s.currentEl ≠ .el0)
    (h : readIdRegister i r val s = .next t) : t = { s.writeX r val with pc := s.pc + 4 } := by
  rcases readIdRegister_cases i r val s with ⟨h0, _⟩ | ⟨_, _, hc⟩ | ⟨_, _, _, hc⟩ | ⟨_, hc⟩
  · exact absurd h0 hel
  · nomatch hc.symm.trans h
  · nomatch hc.symm.trans h
  · exact Host.Outcome.next.inj (h.symm.trans hc)

/-- Settles O49: with the extension enabled the only next state is the completed write of `V[d]`. -/
theorem cryptoFrame : Obligations.CryptoFrame := by
  intro s t i d hd he h
  obtain ⟨r, hexec⟩ := exec_of_vDest hd s
  obtain rfl := cryptoWrite_next_of_enabled he (hexec.symm.trans h)
  exact onlyVAndPc_writeV s d r

/-- Settles O50: above EL0 the only next state is the completed write of `Xt`, which is discarded for XZR. -/
theorem idReadFrame : Obligations.IdReadFrame := by
  intro s t i r hr hel h
  obtain ⟨val, hexec⟩ := exec_of_xDest hr s
  obtain rfl := readIdRegister_next_of_ne_el0 hel (hexec.symm.trans h)
  refine ⟨onlyXAndPc_writeX s r val, ?_⟩
  rintro rfl j
  rw [State.writeX_zeroRegister]
  rfl

/-! ## The state with other X registers: one rule per operation -/

/-- The state with other X registers. -/
def State.withX (s : State) (x : Vector Word 31) : State := { s with x := x }

section WithX

variable (s : State) (x : Vector Word 31)

@[simp] theorem State.withX_params : (s.withX x).params = s.params := rfl

@[simp] theorem State.withX_cryptoEnabled : (s.withX x).cryptoEnabled = s.cryptoEnabled := rfl

theorem State.writeV_withX (d : Nat) (r : Quad) : (s.withX x).writeV d r = (s.writeV d r).withX x := by
  unfold State.writeV
  split <;> rfl

/-- Completing an instruction reads only `pc` (10_state.md R24). -/
theorem advance_withX : advance (s.withX x) = onNext (·.withX x) (advance s) := by
  rcases advance_cases s with ⟨hp, ha⟩ | ⟨hp, ha⟩ <;> rw [ha]
  · exact advance_next (s.withX x) hp
  · exact if_neg (Nat.not_lt.mpr hp)

/-- The entry neither reads nor saves a general register (60_exceptions.md R157). -/
theorem takeException_withX (esr : Syndrome) : takeException esr (s.withX x) = (takeException esr s).withX x := by
  have ht : (s.withX x).exceptionTarget = s.exceptionTarget := rfl
  simp only [takeException, ht]
  cases s.exceptionTarget <;> rfl

theorem raiseUndefined_withX (info : UndefinedInfo) (w : InstrWord) :
    raiseUndefined info w (s.withX x) = onNext (·.withX x) (raiseUndefined info w s) := by
  unfold raiseUndefined
  rw [State.withX_params]
  cases s.params.undefinedOutcome
  case endsRun => rfl
  case entersHandler => exact congrArg Host.Outcome.next (takeException_withX s x _)

/-- `CheckCrypto()`, the write of `V[d]` and the advance read no X register (60_exceptions.md R150). -/
theorem cryptoWrite_withX (i : Instr) (d : Nat) (r : Quad) :
    cryptoWrite i d r (s.withX x) = onNext (·.withX x) (cryptoWrite i d r s) := by
  simp only [cryptoWrite, checkCrypto, State.withX_params, State.withX_cryptoEnabled, State.writeV_withX, advance_withX,
    raiseUndefined_withX]
  split
  · rfl
  · split <;> rfl

end WithX

/-- Settles O51: the result of a cryptographic instruction is computed from V registers, and its write ignores the X
registers. -/
theorem cryptoIgnoresXRegisters : Obligations.CryptoIgnoresXRegisters := by
  intro s i x hi
  cases i with
  | mrsIdAa64isar0 | mrsIdIsar5 => nomatch hi
  | aese | aesd | aesmc | aesimc | pmull | pmull2 | sha1c | sha1p | sha1m | sha1h | sha1su0 | sha1su1 | sha256h | sha256h2
  | sha256su0 | sha256su1 => exact cryptoWrite_withX s x _ _ _

end Sys2Proof.Machine

/-! PROOFS of the family `20_memory.md`: the invariant and the program text over every step (O57, O58), the fetched word
(O7), where the fetch stops (O8), and the step as the meaning of the decoded instruction (O6). -/

namespace Sys2Proof.Machine

/-! ## What every instruction keeps -/

/-- Where everything beside the X and V registers and `pc` is the same, the exception registers of every level are. -/
theorem SameBesideRegisters.bank {s t : State} (h : SameBesideRegisters s t) (l : HandlerLevel) : t.bank l = s.bank l := by
  cases l
  case el1 => exact h.el1
  case el2 => exact h.el2
  case el3 => exact h.el3

/-- No instruction changes the program text: none stores to memory (20_memory.md R61). -/
theorem exec_next_mem {i : Instr} {s t : State} (h : exec i s = .next t) : t.mem = s.mem := by
  rcases exec_next_cases h with ⟨_, _, d, r, rfl⟩ | ⟨_, _, r, val, rfl⟩ | ⟨_, rfl⟩
  · exact State.writeV_mem s d r
  · exact State.writeX_mem s r val
  · exact takeException_mem _ s

theorem step_next_mem {s t : State} (h : step s = .next t) : t.mem = s.mem := by
  obtain ⟨_, _, _, _, _, _, hexec⟩ := step_next_cases h
  exact exec_next_mem hexec

/-- No instruction changes a vector base: the entry into a handler reads it (60_exceptions.md R158). -/
theorem exec_next_vbar {i : Instr} {s t : State} (h : exec i s = .next t) (l : HandlerLevel) :
    (t.bank l).vbar = (s.bank l).vbar := by
  rcases exec_next_cases h with ⟨_, _, d, r, rfl⟩ | ⟨_, _, r, val, rfl⟩ | ⟨_, rfl⟩
  · rw [(onlyVAndPc_writeV s d r).rest.bank]
  · rw [(onlyXAndPc_writeX s r val).rest.bank]
  · exact takeException_vbar _ s l

/-- Where an instruction leaves `pc`: four further on, or at a vector of the exception's target level (10_state.md R24,
60_exceptions.md R158). -/
theorem exec_next_pc {i : Instr} {s t : State} (h : exec i s = .next t) :
    t.pc = s.pc + 4 ∨ t.pc = (s.bank s.exceptionTarget).vbar + s.vectorOffset s.exceptionTarget := by
  rcases exec_next_cases h with ⟨_, _, d, r, rfl⟩ | ⟨_, _, r, val, rfl⟩ | ⟨_, rfl⟩
  · exact .inl rfl
  · exact .inl rfl
  · exact .inr (takeException_pc _ s)

/-! ## The invariant -/

/-- The invariant, with the three vector bases as one fact over the handler levels. -/
theorem State.inv_iff (s : State) :
    s.Inv ↔ pcAligned s.pc = true ∧ s.mem.wf = true ∧ ∀ l, pcAligned (s.bank l).vbar = true := by
  constructor
  · rintro ⟨hpc, hmem, h1, h2, h3⟩
    refine ⟨hpc, hmem, fun l => ?_⟩
    cases l
    case el1 => exact h1
    case el2 => exact h2
    case el3 => exact h3
  · rintro ⟨hpc, hmem, hvbar⟩
    exact ⟨hpc, hmem, hvbar .el1, hvbar .el2, hvbar .el3⟩

/-- An instruction keeps alignment on both of its ways out: `pc + 4` is aligned with `pc`, a vector with its base. -/
theorem exec_next_inv {i : Instr} {s t : State} (hs : s.Inv) (h : exec i s = .next t) : t.Inv := by
  obtain ⟨hpc, hmem, hvbar⟩ := s.inv_iff.1 hs
  refine t.inv_iff.2 ⟨?_, ?_, fun l => ?_⟩
  · rcases exec_next_pc h with ht | ht
    · rw [ht, pcAligned_add_four, hpc]
    · rw [ht, pcAligned_vector, hvbar]
  · rw [exec_next_mem h, hmem]
  · rw [exec_next_vbar h, hvbar]

/-- Settles O57: a step is an instruction's meaning, and every instruction keeps the invariant. -/
theorem stepKeepsInvariant : Obligations.StepKeepsInvariant := by
  intro s t hs h
  obtain ⟨_, _, _, _, _, _, hexec⟩ := step_next_cases h
  exact exec_next_inv hs hexec

/-- Settles O58: `crypto_enabled` is derived from the launch parameters, which every step keeps, as it keeps the text. -/
theorem stepKeepsTextAndParameters : Obligations.StepKeepsTextAndParameters := by
  intro s t h
  have hparams := step_next_params h
  refine ⟨step_next_mem h, hparams, ?_⟩
  rw [State.cryptoEnabled, hparams, State.cryptoEnabled]

/-! ## The fetched word -/

/-- The concatenation of four bytes, as the spec's OR of shifted bytes (20_memory.md R63). -/
theorem wordOfBytes_eq_or (b0 b1 b2 b3 : Byte) : wordOfBytes b0 b1 b2 b3 =
    (b0.setWidth 32 ||| b1.setWidth 32 <<< 8 ||| b2.setWidth 32 <<< 16 ||| b3.setWidth 32 <<< 24) := by
  apply BitVec.eq_of_getLsbD_eq
  intro j hj
  simp only [wordOfBytes, BitVec.getLsbD_append, BitVec.getLsbD_or, BitVec.getLsbD_shiftLeft, BitVec.getLsbD_setWidth]
  interval_cases j <;> simp

/-- Settles O7: the four bytes make the word by concatenation, and the example's bytes are decoded. -/
theorem fetchIsLittleEndian : Obligations.FetchIsLittleEndian := by
  refine ⟨fun m a b0 b1 b2 b3 h0 h1 h2 h3 => ?_, by decide⟩
  rw [Memory.fetchWord_of_bytes m a h0 h1 h2 h3, wordOfBytes_eq_or]

/-! ## One step, case by case of the fetch -/

/-- A read that touches a byte outside the program text gives nothing (20_memory.md R61). -/
theorem Memory.read_eq_none (m : Memory) {addr n k : Nat} (hk : k < n) (h : m.readByte (addr + k) = none) :
    m.read addr n = none := by
  induction n with
  | zero => omega
  | succ n ih =>
    rw [Memory.read]
    rcases Nat.lt_succ_iff_lt_or_eq.1 hk with hlt | rfl
    · rw [ih hlt]
    · rw [h]
      cases m.read addr k <;> rfl

/-- A misaligned `pc` is refused before anything else is looked at (20_memory.md R65). -/
theorem step_of_misaligned {s : State} (ha : pcAligned s.pc = false) : step s = .refused .pcMisaligned := by
  simp [step, fetch, ha]

/-- At `end_pc` the run has ended before the fetch (70_reset_and_hazards.md R188). -/
theorem step_of_endPc {s : State} (ha : pcAligned s.pc = true) (he : s.pc = s.params.endPc) :
    step s = .refused .runEnded := by
  simp [step, fetch, ha, ← he]

/-- Outside the program text the machine is stuck (20_memory.md R61). -/
theorem step_of_fetchWord_none {s : State} (ha : pcAligned s.pc = true) (he : s.pc ≠ s.params.endPc)
    (hm : s.mem.fetchWord s.pc = none) : step s = .fault (.fetchOutsideText s.pc) := by
  simp [step, fetch, ha, he, hm]

/-- A fetched word is decoded and run (30_encoding.md R84). -/
theorem step_of_fetchWord {s : State} {w : InstrWord} (ha : pcAligned s.pc = true) (he : s.pc ≠ s.params.endPc)
    (hm : s.mem.fetchWord s.pc = some w) : step s = decodeAndRun w (fun i => exec i s) := by
  simp [step, fetch, ha, he, hm]

theorem decodeAndRun_of_ok {w : InstrWord} {i : Instr} (run : Instr → Result) (hd : decode w = .ok i) :
    decodeAndRun w run = run i := by
  simp [decodeAndRun, hd]

/-- Settles O8: each clause is one case of the fetch. -/
theorem fetchStops : Obligations.FetchStops := by
  intro s
  have ha : s.pc.toNat % 4 = 0 → pcAligned s.pc = true := fun h => by rw [pcAligned_eq, decide_eq_true h]
  refine ⟨fun h => ?_, fun h he => step_of_endPc (ha h) he, ?_⟩
  · exact step_of_misaligned (by rw [pcAligned_eq, decide_eq_false h])
  · rintro h he ⟨k, hk, hnone⟩
    exact step_of_fetchWord_none (ha h) he (Memory.read_eq_none s.mem hk hnone)

/-- Settles O6: the fetched word is decoded, and what it decodes to is run. -/
theorem stepRunsDecodedInstruction : Obligations.StepRunsDecodedInstruction := by
  intro s w i ha he hm hd
  rw [step_of_fetchWord ha he hm, decodeAndRun_of_ok _ hd]

end Sys2Proof.Machine

/-! PROOFS of the family `30_encoding.md`: the rows of the opcode map are disjoint and decide the words they select (O4),
decode and encode are inverse to each other (O2, O3), and a word that selects no row is refused (O5). -/

namespace Sys2Proof

open Laws.SelectsRow (rowIndex)

/-! ## The opcode map: disjoint rows, each deciding its words -/

/-- A word that selects two rows makes their patterns agree on the bits both masks cover (30_encoding.md R84). -/
theorem OpcodeRow.pattern_and_mask_comm_of_selects {r q : OpcodeRow} {w : InstrWord} (hr : r.selects w = true)
    (hq : q.selects w = true) : r.pattern &&& q.mask = q.pattern &&& r.mask := by
  rw [OpcodeRow.selects, beq_iff_eq] at hr hq
  rw [← hr, ← hq, BitVec.and_assoc, BitVec.and_assoc, BitVec.and_comm r.mask]

/-- R84's derivation: any two rows differ in a bit that both masks cover. -/
theorem opcodeTable_pairwise_differ :
    opcodeTable.Pairwise (fun r q => r.pattern &&& q.mask ≠ q.pattern &&& r.mask) := by
  decide

theorem opcodeTable_pairwise_disjoint :
    opcodeTable.Pairwise (fun r q => ∀ w : InstrWord, ¬ (r.selects w = true ∧ q.selects w = true)) :=
  opcodeTable_pairwise_differ.imp fun hdiff _ ⟨hr, hq⟩ =>
    hdiff (OpcodeRow.pattern_and_mask_comm_of_selects hr hq)

/-- A word selects at most one row. -/
theorem opcodeRow_eq_of_selects {r q : OpcodeRow} {w : InstrWord} (hr : r ∈ opcodeTable) (hq : q ∈ opcodeTable)
    (hrw : r.selects w = true) (hqw : q.selects w = true) : r = q := by
  by_contra hne
  have hsymm : Std.Symm fun r q : OpcodeRow => ∀ w : InstrWord, ¬ (r.selects w = true ∧ q.selects w = true) :=
    ⟨fun _ _ h w ⟨hq, hr⟩ => h w ⟨hr, hq⟩⟩
  exact opcodeTable_pairwise_disjoint.forall hr hq hne w ⟨hrw, hqw⟩

/-- The row the decoder finds is a row of the map that the word selects. -/
theorem mem_and_selects_of_find? {r : OpcodeRow} {w : InstrWord}
    (h : opcodeTable.find? (fun r => r.selects w) = some r) : r ∈ opcodeTable ∧ r.selects w = true :=
  ⟨List.mem_of_find?_eq_some h, List.find?_some (p := fun r : OpcodeRow => r.selects w) h⟩

theorem decode_of_selects {r : OpcodeRow} {w : InstrWord} (hr : r ∈ opcodeTable) (hrw : r.selects w = true) :
    decode w = .ok (r.build (fieldRd w) (fieldRn w) (fieldRm w)) := by
  have hsome : (opcodeTable.find? (fun r => r.selects w)).isSome := List.find?_isSome.2 ⟨r, hr, hrw⟩
  obtain ⟨q, hfind⟩ := Option.isSome_iff_exists.1 hsome
  obtain ⟨hq, hqw⟩ := mem_and_selects_of_find? hfind
  obtain rfl : r = q := opcodeRow_eq_of_selects hr hq hrw hqw
  simp only [decode, hfind]

theorem decode_of_selects_none {w : InstrWord} (h : ∀ r ∈ opcodeTable, r.selects w = false) :
    decode w = .error (.outside (classifyOutside w)) := by
  have hfind : opcodeTable.find? (fun r => r.selects w) = none := by simpa using h
  simp only [decode, hfind]

/-- A word that decodes selects a row, which builds the instruction from the word's fields. -/
theorem exists_row_of_decode {w : InstrWord} {i : Instr} (h : decode w = .ok i) :
    ∃ r ∈ opcodeTable, r.selects w = true ∧ r.build (fieldRd w) (fieldRn w) (fieldRm w) = i := by
  unfold decode at h
  split at h
  next r hfind =>
    obtain ⟨hr, hrw⟩ := mem_and_selects_of_find? hfind
    exact ⟨r, hr, hrw, Except.ok.inj h⟩
  next => cases h

/-- Settles O4: the patterns differ under both masks, so the row the decoder finds is the only one a word selects. -/
theorem opcodeRowsDisjoint : Obligations.OpcodeRowsDisjoint :=
  ⟨rfl, opcodeTable_pairwise_disjoint, fun _ _ => decode_of_selects,
    fun w h => ⟨classifyOutside w, decode_of_selects_none h⟩⟩

/-! ## The word of an instruction decodes to it -/

/-- The word of every instruction selects the instruction's row (30_encoding.md R76 to R80, R83). -/
theorem encode_selects_row : ∀ i : Instr, Laws.SelectsRow.Statement i
  | .mrsIdAa64isar0 t => Laws.SelectsRow.mrsIdAa64isar0 t
  | .mrsIdIsar5 t => Laws.SelectsRow.mrsIdIsar5 t
  | .aese d n => Laws.SelectsRow.aese d n
  | .aesd d n => Laws.SelectsRow.aesd d n
  | .aesmc d n => Laws.SelectsRow.aesmc d n
  | .aesimc d n => Laws.SelectsRow.aesimc d n
  | .pmull d n m => Laws.SelectsRow.pmull d n m
  | .pmull2 d n m => Laws.SelectsRow.pmull2 d n m
  | .sha1c d n m => Laws.SelectsRow.sha1c d n m
  | .sha1p d n m => Laws.SelectsRow.sha1p d n m
  | .sha1m d n m => Laws.SelectsRow.sha1m d n m
  | .sha1h d n => Laws.SelectsRow.sha1h d n
  | .sha1su0 d n m => Laws.SelectsRow.sha1su0 d n m
  | .sha1su1 d n => Laws.SelectsRow.sha1su1 d n
  | .sha256h d n m => Laws.SelectsRow.sha256h d n m
  | .sha256h2 d n m => Laws.SelectsRow.sha256h2 d n m
  | .sha256su0 d n => Laws.SelectsRow.sha256su0 d n
  | .sha256su1 d n m => Laws.SelectsRow.sha256su1 d n m

theorem exists_row_selects_encode (i : Instr) :
    ∃ r, opcodeTable[rowIndex i]? = some r ∧ r.selects (encode i) = true := by
  simpa only [Laws.SelectsRow.Statement, Option.any_eq_true] using encode_selects_row i

/-- The row of a well-formed instruction, given the fields of the instruction's word, builds the instruction. -/
theorem build_fields_encode {i : Instr} {r : OpcodeRow} (hi : i.WellFormed = true)
    (hr : opcodeTable[rowIndex i]? = some r) :
    r.build (fieldRd (encode i)) (fieldRn (encode i)) (fieldRm (encode i)) = i := by
  cases i <;> cases hr <;> simp only [Instr.WellFormed, isRegNumber, Bool.and_eq_true, decide_eq_true_eq] at hi
  case mrsIdAa64isar0 | mrsIdIsar5 =>
    simp only [encode, fieldRd_encodeMrs, hi]
  case aese | aesd | aesmc | aesimc =>
    simp only [encode, fieldRd_encodeCryptoAes, fieldRn_encodeCryptoAes, hi]
  case pmull | pmull2 =>
    simp only [encode, fieldRd_encodePmull, fieldRn_encodePmull, fieldRm_encodePmull, hi]
  case sha1h | sha1su1 | sha256su0 =>
    simp only [encode, fieldRd_encodeCryptoSha2, fieldRn_encodeCryptoSha2, hi]
  case sha1c | sha1p | sha1m | sha1su0 | sha256h | sha256h2 | sha256su1 =>
    simp only [encode, fieldRd_encodeCryptoSha3, fieldRn_encodeCryptoSha3, fieldRm_encodeCryptoSha3, hi]

/-- Settles O2: the word selects the instruction's row, and the row reads the operands back from their fields. -/
theorem decodeOfEncode : Obligations.DecodeOfEncode := by
  intro i hi
  obtain ⟨r, hrow, hsel⟩ := exists_row_selects_encode i
  rw [decode_of_selects (List.mem_of_getElem? hrow) hsel, build_fields_encode hi hrow]

/-! ## A word that decodes is the word of its instruction -/

theorem fieldRd_lt (w : InstrWord) : fieldRd w < 32 := BitVec.isLt _

theorem fieldRn_lt (w : InstrWord) : fieldRn w < 32 := BitVec.isLt _

theorem fieldRm_lt (w : InstrWord) : fieldRm w < 32 := BitVec.isLt _

/-- Every row builds a well-formed instruction from register numbers (30_encoding.md R81). -/
theorem build_wellFormed {r : OpcodeRow} (hr : r ∈ opcodeTable) {d n m : Nat} (hd : d < 32) (hn : n < 32) (hm : m < 32) :
    (r.build d n m).WellFormed = true := by
  fin_cases hr <;> simp [Instr.WellFormed, isRegNumber, hd, hn, hm]

/-- A row is the row of every instruction it builds. -/
theorem getElem?_rowIndex_build {r : OpcodeRow} (hr : r ∈ opcodeTable) (d n m : Nat) :
    opcodeTable[rowIndex (r.build d n m)]? = some r := by
  fin_cases hr <;> rfl

theorem wellFormed_of_decode {w : InstrWord} {i : Instr} (h : decode w = .ok i) : i.WellFormed = true := by
  obtain ⟨r, hr, -, rfl⟩ := exists_row_of_decode h
  exact build_wellFormed hr (fieldRd_lt w) (fieldRn_lt w) (fieldRm_lt w)

/-- Words that agree under two masks agree under their union. -/
theorem and_or_congr {w w' a b : InstrWord} (ha : w &&& a = w' &&& a) (hb : w &&& b = w' &&& b) :
    w &&& (a ||| b) = w' &&& (a ||| b) := by
  rw [BitVec.and_or_distrib_left, BitVec.and_or_distrib_left, ha, hb]

/-- The mask of `len` bits from `start` up. -/
def bitRange (start len : Nat) : InstrWord := (BitVec.allOnes len).setWidth 32 <<< start

/-- Words with the same field agree under the field's mask. -/
theorem and_bitRange_eq {w w' : InstrWord} {start len : Nat}
    (h : w.extractLsb' start len = w'.extractLsb' start len) : w &&& bitRange start len = w' &&& bitRange start len := by
  apply BitVec.eq_of_getLsbD_eq
  intro j hj
  simp only [bitRange, BitVec.getLsbD_and, BitVec.getLsbD_shiftLeft, BitVec.getLsbD_setWidth, BitVec.getLsbD_allOnes]
  by_cases hin : start ≤ j ∧ j - start < len
  · obtain ⟨hle, hlt⟩ := hin
    have hbit : w.getLsbD j = w'.getLsbD j := by
      simpa [hlt, Nat.add_sub_cancel' hle] using congrArg (BitVec.getLsbD · (j - start)) h
    rw [hbit]
  · have hout : j < start ∨ ¬ j - start < len := by omega
    rcases hout with hlt | hge
    · simp [hlt]
    · simp [hge]

theorem and_mask_of_fieldRd_eq {w w' : InstrWord} (h : fieldRd w = fieldRd w') : w &&& 0x1F#32 = w' &&& 0x1F#32 :=
  and_bitRange_eq (start := 0) (len := 5) (BitVec.eq_of_toNat_eq h)

theorem and_mask_of_fieldRn_eq {w w' : InstrWord} (h : fieldRn w = fieldRn w') : w &&& 0x3E0#32 = w' &&& 0x3E0#32 :=
  and_bitRange_eq (start := 5) (len := 5) (BitVec.eq_of_toNat_eq h)

theorem and_mask_of_fieldRm_eq {w w' : InstrWord} (h : fieldRm w = fieldRm w') :
    w &&& 0x1F0000#32 = w' &&& 0x1F0000#32 :=
  and_bitRange_eq (start := 16) (len := 5) (BitVec.eq_of_toNat_eq h)

/-- The bits a row's mask leaves free are the fields the row builds from, so the instruction built fixes them. -/
theorem and_not_mask_of_build_eq {i : Instr} {r : OpcodeRow} {w w' : InstrWord}
    (hrow : opcodeTable[rowIndex i]? = some r) (hw : r.build (fieldRd w) (fieldRn w) (fieldRm w) = i)
    (hw' : r.build (fieldRd w') (fieldRn w') (fieldRm w') = i) : w &&& ~~~r.mask = w' &&& ~~~r.mask := by
  have hbuild := hw.trans hw'.symm
  cases i <;> cases hrow
  case mrsIdAa64isar0 | mrsIdIsar5 =>
    injection hbuild with hd
    exact and_mask_of_fieldRd_eq hd
  case aese | aesd | aesmc | aesimc | sha1h | sha1su1 | sha256su0 =>
    injection hbuild with hd hn
    exact and_or_congr (and_mask_of_fieldRd_eq hd) (and_mask_of_fieldRn_eq hn)
  case pmull | pmull2 | sha1c | sha1p | sha1m | sha1su0 | sha256h | sha256h2 | sha256su1 =>
    injection hbuild with hd hn hm
    exact and_or_congr (and_or_congr (and_mask_of_fieldRd_eq hd) (and_mask_of_fieldRn_eq hn)) (and_mask_of_fieldRm_eq hm)

/-- Words that agree on a mask and on its complement are one. -/
theorem eq_of_and_mask_eq {w w' mask : InstrWord} (h : w &&& mask = w' &&& mask)
    (hnot : w &&& ~~~mask = w' &&& ~~~mask) : w = w' := by
  simpa only [BitVec.or_not_self, BitVec.and_allOnes] using and_or_congr h hnot

/-- No word has a second spelling (30_encoding.md R91): the row fixes the bits of its mask, the instruction the others. -/
theorem eq_of_decode_eq_ok {w w' : InstrWord} {i : Instr} (hw : decode w = .ok i) (hw' : decode w' = .ok i) : w = w' := by
  obtain ⟨r, hr, hrw, hbuild⟩ := exists_row_of_decode hw
  obtain ⟨q, hq, hqw, hbuild'⟩ := exists_row_of_decode hw'
  have hrow : opcodeTable[rowIndex i]? = some r := hbuild ▸ getElem?_rowIndex_build hr _ _ _
  have hrow' : opcodeTable[rowIndex i]? = some q := hbuild' ▸ getElem?_rowIndex_build hq _ _ _
  obtain rfl : r = q := Option.some.inj (hrow.symm.trans hrow')
  rw [OpcodeRow.selects, beq_iff_eq] at hrw hqw
  exact eq_of_and_mask_eq (hrw.trans hqw.symm) (and_not_mask_of_build_eq hrow hbuild hbuild')

/-- Settles O3: the word of the decoded instruction decodes to that instruction too, and decode is injective. -/
theorem encodeOfDecode : Obligations.EncodeOfDecode := by
  intro w i h
  have hi := wellFormed_of_decode h
  exact ⟨hi, eq_of_decode_eq_ok (decodeOfEncode i hi) h⟩

end Sys2Proof

namespace Sys2Proof.Machine

/-! ## Words outside the spec -/

theorem decodeAndRun_of_error {w : InstrWord} {why : DecodeError} (run : Instr → Result) (hd : decode w = .error why) :
    decodeAndRun w run = .refused (.outsideSpec why w) := by
  simp only [decodeAndRun, hd]

/-- Settles O5: the fetched word selects no row, so the decoder answers `outside` and no instruction runs. -/
theorem outsideWordRefused : Obligations.OutsideWordRefused := by
  intro s w ha he hm hrows
  have hnone : ∀ r ∈ opcodeTable, r.selects w = false := fun r hr => beq_eq_false_iff_ne.2 (hrows r hr)
  refine ⟨classifyOutside w, ?_⟩
  rw [step_of_fetchWord ha he hm, decodeAndRun_of_error _ (decode_of_selects_none hnone)]

end Sys2Proof.Machine

/-! PROOFS of the family `40_id_register_read.md`: the two reads above EL0 (O11, O12) and at EL0 (O13), and the fields that
announce the cryptographic instructions (O16). -/

namespace Sys2Proof.Machine

/-! ## The reads above EL0 -/

/-- A written general register reads back the value, and the zero register reads 0 whatever is written
(40_id_register_read.md R102). -/
theorem State.readX_writeX_self (s : State) {t : Nat} (val : Word) (ht : t < 32) :
    (s.writeX t val).readX t = if t = 31 then 0 else val := by
  split
  case isTrue h => rw [h, State.readX_zeroRegister]
  case isFalse h => exact State.readX_writeX_same s val (by omega)

/-- What both reads do above EL0, whatever the register holds (40_id_register_read.md R97, R98). -/
theorem readIdRegister_completes (i : Instr) {t : Nat} (val : Word) {s : State} (ht : t < 32) (hs : s.IdReadReady) :
    ∃ u, readIdRegister i t val s = .next u ∧ u.readX t = (if t = 31 then 0 else val) ∧ OnlyXAndPc s u t :=
  ⟨_, readIdRegister_ready i t val s hs, State.readX_writeX_self s val ht, onlyXAndPc_writeX s t val⟩

/-- ID_AA64ISAR0_EL1 as the two constants of 10_state.md R40. -/
theorem State.idAa64isar0_eq (s : State) :
    s.idAa64isar0 = if s.cryptoEnabled then 0x0000100010211120#64 else 0x0000100010210000#64 :=
  (idAa64isar0Value s).1

/-- ID_ISAR5_EL1, zero-extended, as the two constants of 10_state.md R50. -/
theorem State.idIsar5_setWidth_eq (s : State) :
    s.idIsar5.setWidth 64 = if s.cryptoEnabled then 0x0000000001011121#64 else 0x0000000001010001#64 := by
  have hval : s.idIsar5 = if s.cryptoEnabled then 0x01011121#32 else 0x01010001#32 := (idIsar5Value s).1
  rw [hval, apply_ite (BitVec.setWidth 64)]
  rfl

/-- Settles O11: the read completes with the register's value, which is one of two constants. -/
theorem mrsIdAa64isar0Completes : Obligations.MrsIdAa64isar0Completes := by
  intro s t ht hs
  rw [← s.idAa64isar0_eq]
  exact readIdRegister_completes (.mrsIdAa64isar0 t) s.idAa64isar0 ht hs

/-- Settles O12: the read completes with the register's value zero-extended, which is one of two constants. -/
theorem mrsIdIsar5Completes : Obligations.MrsIdIsar5Completes := by
  intro s t ht hs
  rw [← s.idIsar5_setWidth_eq]
  exact readIdRegister_completes (.mrsIdIsar5 t) (s.idIsar5.setWidth 64) ht hs

/-! ## The reads at EL0 -/

theorem raiseUndefined_of_endsRun {s : State} (h : s.params.undefinedOutcome = .endsRun) (info : UndefinedInfo)
    (w : InstrWord) : raiseUndefined info w s = .fault (.undefined info s.pc w) := by
  rw [raiseUndefined, h]

theorem raiseUndefined_of_entersHandler {s : State} (h : s.params.undefinedOutcome = .entersHandler)
    (info : UndefinedInfo) (w : InstrWord) : raiseUndefined info w s = .next (takeException undefinedSyndrome s) := by
  rw [raiseUndefined, h]

/-- The access test comes before the trap premise and before the destination (40_id_register_read.md R99, R102). -/
theorem readIdRegister_of_el0 {s : State} (h : s.currentEl = .el0) (i : Instr) (t : Nat) (val : Word) :
    readIdRegister i t val s = raiseUndefined .el0IdRead (encode i) s := by
  rw [readIdRegister, h]
  rfl

/-- Settles O13: either instruction is a read of an ID register, which at EL0 is the exception in both its outcomes. -/
theorem mrsAtEl0RaisesUndefined : Obligations.MrsAtEl0RaisesUndefined := by
  intro s i t hi hel
  have hdest : xDest i = some t := by rcases hi with rfl | rfl <;> rfl
  obtain ⟨val, hexec⟩ := exec_of_xDest hdest s
  rw [hexec, readIdRegister_of_el0 hel]
  exact ⟨fun ho => raiseUndefined_of_endsRun ho _ _, fun ho => raiseUndefined_of_entersHandler ho _ _⟩

/-! ## The fields that announce the cryptographic instructions -/

/-- Where the exception ends the run, a cryptographic instruction is free of it exactly when the extension is enabled; what
it may still answer is a refusal (60_exceptions.md R150). -/
theorem exec_not_undefined_iff_cryptoEnabled {i : Instr} {s : State} (hi : i.isCrypto = true)
    (ho : s.params.undefinedOutcome = .endsRun) :
    (∀ info pc w, exec i s ≠ .fault (.undefined info pc w)) ↔ s.cryptoEnabled = true := by
  obtain ⟨d, r, hexec⟩ := exec_crypto i hi s
  rw [hexec]
  rcases cryptoWrite_cases i d r s with ⟨hoff, hc⟩ | ⟨hon, _, hc⟩ | ⟨hon, _, _, hc⟩ | ⟨⟨hon, _⟩, hc⟩
  · rw [hc, raiseUndefined_of_endsRun ho]
    exact iff_of_false (fun hne => hne _ _ _ rfl) (by simp [hoff])
  · exact iff_of_true (by simp [hc]) hon
  · exact iff_of_true (by simp [hc]) hon
  · exact iff_of_true (by simp [hc]) hon

/-- Any field that holds its non-zero value exactly when the extension is enabled announces every cryptographic
instruction (40_id_register_read.md R103). -/
theorem exec_not_undefined_iff_field {i : Instr} {s : State} {field value : BitVec 4}
    (hi : i.family ≠ .idRegisterRead) (ho : s.params.undefinedOutcome = .endsRun) (hvalue : value ≠ 0)
    (hfield : field = if s.cryptoEnabled then value else 0) :
    (∀ info pc w, exec i s ≠ .fault (.undefined info pc w)) ↔ field = value := by
  rw [exec_not_undefined_iff_cryptoEnabled (bne_iff_ne.2 hi) ho, hfield]
  cases s.cryptoEnabled
  case false => simpa using hvalue.symm
  case true => simp

/-- The fields AES, SHA1 and SHA2 of ID_ISAR5_EL1 are those of ID_AA64ISAR0_EL1 (40_id_register_read.md R103). -/
theorem State.idIsar5_announces_as_idAa64isar0 (s : State) :
    s.idIsar5.extractLsb' 4 12 = s.idAa64isar0.extractLsb' 4 12 := by
  unfold State.idIsar5 State.idAa64isar0
  cases s.cryptoEnabled
  case false => decide
  case true => decide

/-- The three fields are all zero or all non-zero, since one condition sets them (40_id_register_read.md R103). -/
theorem State.idAa64isar0_fields_zero_or_nonzero (s : State) :
    s.idAa64isar0.extractLsb' 4 12 = 0 ∨
      s.idAa64isar0.extractLsb' 4 4 ≠ 0 ∧ s.idAa64isar0.extractLsb' 8 4 ≠ 0 ∧ s.idAa64isar0.extractLsb' 12 4 ≠ 0 := by
  unfold State.idAa64isar0
  cases s.cryptoEnabled
  case false => exact .inl (by decide)
  case true => exact .inr (by decide)

/-- Settles O16: each family's field and the check that begins its instructions are the same condition, `crypto_enabled`. -/
theorem announcedExactlyWhenDefined : Obligations.AnnouncedExactlyWhenDefined := by
  intro s ho
  obtain ⟨-, -, -, -, -, -, -, -, hsha2, hsha1, haes, -⟩ := idAa64isar0Value s
  exact ⟨fun i hi => exec_not_undefined_iff_field (by simp [hi]) ho (by decide) haes,
    fun i hi => exec_not_undefined_iff_field (by simp [hi]) ho (by decide) hsha1,
    fun i hi => exec_not_undefined_iff_field (by simp [hi]) ho (by decide) hsha2,
    s.idAa64isar0_fields_zero_or_nonzero, s.idIsar5_announces_as_idAa64isar0⟩

end Sys2Proof.Machine

/-! PROOFS of the family `41_aes.md`: multiplication in GF(2^8) (O21), the S-boxes (O22, O23), the rows (O24) and the columns
(O25) of the state, and the four instructions (O17 to O20, O26). -/

namespace Sys2Proof.Machine

/-! ## Multiplication by x -/

/-- `xtime` without the case split: the reduction is an EOR with 0 where no bit is carried out (41_aes.md R106). -/
theorem xtime_eq (a : Byte) : xtime a = (a <<< 1) ^^^ (if a.getLsbD 7 then 0x1B else 0) := by
  unfold xtime
  split
  case isTrue => rfl
  case isFalse => exact BitVec.xor_zero.symm

theorem xtime_zero : xtime 0 = 0 := rfl

/-- A byte selected by the EOR of two bits. -/
theorem ite_xor_zero (p q : Bool) (x : Byte) :
    (if p ^^ q then x else 0) = (if p then x else 0) ^^^ (if q then x else 0) := by
  cases p
  case false => simp
  case true => cases q <;> simp

theorem xtime_xor (a b : Byte) : xtime (a ^^^ b) = xtime a ^^^ xtime b := by
  rw [xtime_eq, BitVec.shiftLeft_xor_distrib, BitVec.getLsbD_xor, ite_xor_zero, xtime_eq, xtime_eq]
  ac_rfl

theorem xtimes_zero (i : Nat) : xtimes 0 i = 0 := by
  induction i with
  | zero => rfl
  | succ i ih => rw [xtimes, ih, xtime_zero]

theorem xtimes_xor (a b : Byte) (i : Nat) : xtimes (a ^^^ b) i = xtimes a i ^^^ xtimes b i := by
  induction i with
  | zero => rfl
  | succ i ih => rw [xtimes, ih, xtime_xor, xtimes, xtimes]

theorem xtimes_xtime (a : Byte) (i : Nat) : xtimes (xtime a) i = xtime (xtimes a i) := by
  induction i with
  | zero => rfl
  | succ i ih => rw [xtimes, ih, xtimes]

theorem xtimes_eq_repeat (a : Byte) (i : Nat) : xtimes a i = Nat.repeat xtime i a := by
  induction i with
  | zero => rfl
  | succ i ih => rw [xtimes, ih, Nat.repeat]

/-! ## A product is linear in both factors -/

theorem gfMulBits_eq_foldl (a b : Byte) (k : Nat) : gfMulBits a b k =
    (List.range k).foldl (fun acc i => acc ^^^ (if b.getLsbD i then Nat.repeat xtime i a else 0)) 0 := by
  induction k with
  | zero => rfl
  | succ k ih => rw [gfMulBits, ih, xtimes_eq_repeat, List.range_succ, List.foldl_append, List.foldl_cons, List.foldl_nil]

theorem gfMulBits_xor_left (a b c : Byte) (k : Nat) : gfMulBits (a ^^^ b) c k = gfMulBits a c k ^^^ gfMulBits b c k := by
  induction k with
  | zero => exact BitVec.xor_zero.symm
  | succ k ih =>
    rw [gfMulBits, ih, xtimes_xor, gfMulBits, gfMulBits]
    cases c.getLsbD k
    case false => simp
    case true => simp only [if_true]; ac_rfl

theorem gfMulBits_xor_right (a b c : Byte) (k : Nat) : gfMulBits a (b ^^^ c) k = gfMulBits a b k ^^^ gfMulBits a c k := by
  induction k with
  | zero => exact BitVec.xor_zero.symm
  | succ k ih =>
    rw [gfMulBits, ih, BitVec.getLsbD_xor, ite_xor_zero, gfMulBits, gfMulBits]
    ac_rfl

theorem gfMulBits_xtime_left (a b : Byte) (k : Nat) : gfMulBits (xtime a) b k = xtime (gfMulBits a b k) := by
  induction k with
  | zero => exact xtime_zero.symm
  | succ k ih => rw [gfMulBits, ih, xtimes_xtime, gfMulBits, xtime_xor, apply_ite xtime, xtime_zero]

theorem gfMul_xor_left (a b c : Byte) : gfMul (a ^^^ b) c = gfMul a c ^^^ gfMul b c := gfMulBits_xor_left a b c 8

theorem gfMul_xor_right (a b c : Byte) : gfMul a (b ^^^ c) = gfMul a b ^^^ gfMul a c := gfMulBits_xor_right a b c 8

theorem gfMul_one (a : Byte) : gfMul a 1 = a := by simp [gfMul, gfMulBits, xtimes]

theorem gfMul_two (a : Byte) : gfMul a 2 = xtime a := by simp [gfMul, gfMulBits, xtimes]

theorem gfMul_three (a : Byte) : gfMul a 3 = xtime a ^^^ a := by
  rw [show (3 : Byte) = 2 ^^^ 1 by decide, gfMul_xor_right, gfMul_two, gfMul_one]

/-! ## A product is commutative and associative -/

theorem one_gfMul : ∀ b : Byte, gfMul 1 b = b := by decide

theorem zero_gfMul (b : Byte) : gfMul 0 b = 0 := by
  have h := gfMul_xor_left 0 0 b
  rwa [BitVec.xor_self, BitVec.xor_self] at h

theorem gfMul_xtimes_left (a b : Byte) (i : Nat) : gfMul (xtimes a i) b = xtimes (gfMul a b) i := by
  induction i with
  | zero => rfl
  | succ i ih => rw [xtimes, gfMul, gfMulBits_xtime_left, ← gfMul, ih, xtimes]

/-- A factor is taken into the sum of `xtime` powers that makes a product. -/
theorem gfMul_gfMulBits_left (a b c : Byte) (k : Nat) : gfMul (gfMulBits a b k) c = gfMulBits (gfMul a c) b k := by
  induction k with
  | zero => exact zero_gfMul c
  | succ k ih =>
    rw [gfMulBits, gfMul_xor_left, ih, gfMulBits, apply_ite (gfMul · c), gfMul_xtimes_left, zero_gfMul]

theorem gfMul_right_comm (a b c : Byte) : gfMul (gfMul a b) c = gfMul (gfMul a c) b := gfMul_gfMulBits_left a b c 8

/-- The last law with `a` written as 1 times `a`, so that its bits select powers of `b` instead. -/
theorem gfMul_comm (a b : Byte) : gfMul a b = gfMul b a := by
  have h := gfMul_right_comm 1 a b
  rwa [one_gfMul, one_gfMul] at h

theorem gfMul_assoc (a b c : Byte) : gfMul (gfMul a b) c = gfMul a (gfMul b c) := by
  rw [gfMul_comm a b, gfMul_right_comm, gfMul_comm]

/-- A byte has at most one multiplicative inverse. -/
theorem gfMul_inverse_unique {a b c : Byte} (hb : gfMul a b = 1) (hc : gfMul a c = 1) : b = c :=
  calc b = gfMul (gfMul a c) b := by rw [hc, one_gfMul]
    _ = gfMul (gfMul a b) c := gfMul_right_comm a c b
    _ = c := by rw [hb, one_gfMul]

/-- Settles O21: a product is a sum of `xtime` powers, linear in both factors, which makes it commutative. -/
theorem gfMulLaws : Obligations.GfMulLaws :=
  ⟨xtime_eq, fun a b => gfMulBits_eq_foldl a b 8, fun a => ⟨gfMul_one a, gfMul_two a, gfMul_three a⟩, gfMul_comm,
    gfMul_xor_right, by decide, by decide, by decide⟩

/-! ## The S-boxes -/

/-- The affine map of the S-box (41_aes.md R107). -/
def sboxAffine (b : Byte) : Byte := b ^^^ rol b 1 ^^^ rol b 2 ^^^ rol b 3 ^^^ rol b 4 ^^^ 0x63

/-- The inverse of the affine map: applied to `SBOX[a]` it gives back the field inverse of `a`. -/
def sboxAffineInverse (y : Byte) : Byte := rol y 1 ^^^ rol y 3 ^^^ rol y 6 ^^^ 0x05

theorem sboxAffine_sboxAffineInverse : ∀ y : Byte, sboxAffine (sboxAffineInverse y) = y := by decide

/-- The S-box with the affine map undone is the field inverse (41_aes.md R107). -/
theorem gfMul_sboxAffineInverse_sbox : ∀ a : Byte, a ≠ 0 → gfMul a (sboxAffineInverse (sbox a)) = 1 := by decide

theorem sbox_eq_sboxAffine_of_inverse {a b : Byte} (h : gfMul a b = 1) : sbox a = sboxAffine b := by
  have ha : a ≠ 0 := by
    rintro rfl
    exact absurd h (by rw [zero_gfMul]; decide)
  rw [gfMul_inverse_unique h (gfMul_sboxAffineInverse_sbox a ha), sboxAffine_sboxAffineInverse]

theorem invSbox_sbox : ∀ a : Byte, invSbox (sbox a) = a := by decide

theorem sbox_invSbox : ∀ a : Byte, sbox (invSbox a) = a := by decide

/-! ## The transformations byte by byte -/

section Bytes

variable (v : Quad) {i : Nat}

theorem byteOf_aesSubBytes (hi : i < 16) : byteOf (aesSubBytes v) i = sbox (byteOf v i) := byteOf_ofBytes _ hi

theorem byteOf_aesInvSubBytes (hi : i < 16) : byteOf (aesInvSubBytes v) i = invSbox (byteOf v i) := byteOf_ofBytes _ hi

theorem byteOf_aesShiftRows (hi : i < 16) :
    byteOf (aesShiftRows v) i = byteOf v (Reference.shiftRowsSource.getD i 0) := by
  have hsource : ∀ i < 16, stateIndex (i % 4) ((i / 4 + i % 4) % 4) = Reference.shiftRowsSource.getD i 0 := by decide
  rw [aesShiftRows, byteOf_ofBytes _ hi, hsource i hi]

theorem byteOf_aesInvShiftRows (hi : i < 16) :
    byteOf (aesInvShiftRows v) i = byteOf v (Reference.invShiftRowsSource.getD i 0) := by
  have hsource : ∀ i < 16, stateIndex (i % 4) ((i / 4 + 4 - i % 4) % 4) = Reference.invShiftRowsSource.getD i 0 := by
    decide
  rw [aesInvShiftRows, byteOf_ofBytes _ hi, hsource i hi]

/-- Byte `k` of column `c` of a product by a matrix depends on that column alone (41_aes.md R111, R112). -/
theorem byteOf_mixWith (m0 m1 m2 m3 : Byte) {c k : Nat} (hc : c < 4) (hk : k < 4) :
    byteOf (mixWith m0 m1 m2 m3 v) (4 * c + k) = mixByte m0 m1 m2 m3 (fun r => byteOf v (4 * c + r)) k := by
  have hdiv : (4 * c + k) / 4 = c := by omega
  have hmod : (4 * c + k) % 4 = k := by omega
  simp only [mixWith, byteOf_ofBytes _ (show 4 * c + k < 16 by omega), hdiv, hmod, stateIndex, Nat.add_comm _ (4 * c)]

end Bytes

/-- Settles O22: the field inverse is unique, and the S-box with the affine map undone is one. -/
theorem sboxIsInverseThenAffine : Obligations.SboxIsInverseThenAffine :=
  ⟨by decide, by decide, by decide, by decide, fun a ha => ⟨_, gfMul_sboxAffineInverse_sbox a ha⟩,
    fun _ _ h => sbox_eq_sboxAffine_of_inverse h, fun v _ hi => byteOf_aesSubBytes v hi⟩

/-! ## The transformations undo each other -/

theorem aesInvSubBytes_aesSubBytes (v : Quad) : aesInvSubBytes (aesSubBytes v) = v :=
  eq_of_byteOf_eq fun i hi => by rw [byteOf_aesInvSubBytes _ hi, byteOf_aesSubBytes _ hi, invSbox_sbox]

theorem shiftRowsSource_lt : ∀ i < 16, Reference.shiftRowsSource.getD i 0 < 16 := by decide

theorem invShiftRowsSource_lt : ∀ i < 16, Reference.invShiftRowsSource.getD i 0 < 16 := by decide

theorem shiftRowsSource_invShiftRowsSource :
    ∀ i < 16, Reference.shiftRowsSource.getD (Reference.invShiftRowsSource.getD i 0) 0 = i := by decide

theorem aesInvShiftRows_aesShiftRows (v : Quad) : aesInvShiftRows (aesShiftRows v) = v :=
  eq_of_byteOf_eq fun i hi => by
    rw [byteOf_aesInvShiftRows _ hi, byteOf_aesShiftRows _ (invShiftRowsSource_lt i hi),
      shiftRowsSource_invShiftRowsSource i hi]

/-- Substituting bytes and moving them commute (41_aes.md R114). -/
theorem aesSubBytes_aesShiftRows (v : Quad) : aesSubBytes (aesShiftRows v) = aesShiftRows (aesSubBytes v) :=
  eq_of_byteOf_eq fun i hi => by
    rw [byteOf_aesSubBytes _ hi, byteOf_aesShiftRows _ hi, byteOf_aesShiftRows _ hi,
      byteOf_aesSubBytes _ (shiftRowsSource_lt i hi)]

/-- Settles O23: the two tables undo each other, byte by byte. -/
theorem invSubBytesInverts : Obligations.InvSubBytesInverts :=
  ⟨fun a => ⟨invSbox_sbox a, sbox_invSbox a⟩, by decide, by decide, by decide, fun v _ hi => byteOf_aesInvSubBytes v hi,
    aesInvSubBytes_aesSubBytes⟩

/-- Settles O24: both moves are permutations of the bytes, which the two lists give and the rows explain. -/
theorem invShiftRowsInverts : Obligations.InvShiftRowsInverts := by
  refine ⟨fun v r c hr hc => ?_, fun v i hi => ⟨byteOf_aesInvShiftRows v hi, byteOf_aesShiftRows v hi⟩,
    aesInvShiftRows_aesShiftRows, aesSubBytes_aesShiftRows⟩
  have hi : r + 4 * c < 16 := by omega
  have hrow : (r + 4 * c) % 4 = r := by omega
  have hcol : (r + 4 * c) / 4 = c := by omega
  simp only [aesInvShiftRows, aesShiftRows, byteOf_ofBytes _ hi, hrow, hcol, stateIndex, and_self]

/-! ## The columns -/

section MixByte

variable (m0 m1 m2 m3 : Byte) (a : Nat → Byte)

theorem mixByte_at_zero : mixByte m0 m1 m2 m3 a 0 =
    gfMul (a 0) m0 ^^^ gfMul (a 1) m1 ^^^ gfMul (a 2) m2 ^^^ gfMul (a 3) m3 := rfl

theorem mixByte_at_one : mixByte m0 m1 m2 m3 a 1 =
    gfMul (a 0) m3 ^^^ gfMul (a 1) m0 ^^^ gfMul (a 2) m1 ^^^ gfMul (a 3) m2 := by
  show gfMul (a 1) m0 ^^^ gfMul (a 2) m1 ^^^ gfMul (a 3) m2 ^^^ gfMul (a 0) m3 = _
  ac_rfl

theorem mixByte_at_two : mixByte m0 m1 m2 m3 a 2 =
    gfMul (a 0) m2 ^^^ gfMul (a 1) m3 ^^^ gfMul (a 2) m0 ^^^ gfMul (a 3) m1 := by
  show gfMul (a 2) m0 ^^^ gfMul (a 3) m1 ^^^ gfMul (a 0) m2 ^^^ gfMul (a 1) m3 = _
  ac_rfl

theorem mixByte_at_three : mixByte m0 m1 m2 m3 a 3 =
    gfMul (a 0) m1 ^^^ gfMul (a 1) m2 ^^^ gfMul (a 2) m3 ^^^ gfMul (a 3) m0 := by
  show gfMul (a 3) m0 ^^^ gfMul (a 0) m1 ^^^ gfMul (a 1) m2 ^^^ gfMul (a 2) m3 = _
  ac_rfl

/-- Only the four bytes of the column are read. -/
theorem mixByte_congr {b : Nat → Byte} (h : ∀ r < 4, a r = b r) (k : Nat) :
    mixByte m0 m1 m2 m3 a k = mixByte m0 m1 m2 m3 b k := by
  have hmod : ∀ j, a (j % 4) = b (j % 4) := fun j => h _ (Nat.mod_lt j (by decide))
  simp only [mixByte, hmod]

/-- A column of equal bytes is multiplied by the sum of a row. -/
theorem mixByte_const (b : Byte) (k : Nat) : mixByte m0 m1 m2 m3 (fun _ => b) k = gfMul b (m0 ^^^ m1 ^^^ m2 ^^^ m3) := by
  simp only [mixByte, gfMul_xor_right]

/-- The matrix of first row 1 0 0 0 is the identity. -/
theorem mixByte_identity {k : Nat} (hk : k < 4) : mixByte 1 0 0 0 a k = a k := by
  have hzero (x : Byte) : gfMul x 0 = 0#8 := (gfMul_comm x 0).trans (zero_gfMul x)
  simp only [mixByte, gfMul_one, hzero, BitVec.xor_zero, Nat.mod_eq_of_lt hk]

/-- The product of two matrices whose rows are rotations of their first row is again such a matrix. -/
theorem mixByte_mixByte (n0 n1 n2 n3 : Byte) {k : Nat} (hk : k < 4) :
    mixByte n0 n1 n2 n3 (mixByte m0 m1 m2 m3 a) k =
      mixByte (gfMul m0 n0 ^^^ gfMul m3 n1 ^^^ gfMul m2 n2 ^^^ gfMul m1 n3)
        (gfMul m1 n0 ^^^ gfMul m0 n1 ^^^ gfMul m3 n2 ^^^ gfMul m2 n3)
        (gfMul m2 n0 ^^^ gfMul m1 n1 ^^^ gfMul m0 n2 ^^^ gfMul m3 n3)
        (gfMul m3 n0 ^^^ gfMul m2 n1 ^^^ gfMul m1 n2 ^^^ gfMul m0 n3) a k := by
  interval_cases k
  all_goals -- one argument for the four rows: sixteen products on either side, in another order
    simp only [mixByte_at_zero, mixByte_at_one, mixByte_at_two, mixByte_at_three, gfMul_xor_left, gfMul_xor_right,
      gfMul_assoc]
    ac_rfl

end MixByte

/-- Two states with the same columns are equal. -/
theorem eq_of_column_eq {v w : Quad} (h : ∀ c k, c < 4 → k < 4 → byteOf v (4 * c + k) = byteOf w (4 * c + k)) : v = w :=
  eq_of_byteOf_eq fun i hi => by
    rw [← Nat.div_add_mod i 4]
    exact h _ _ (by omega) (Nat.mod_lt i (by decide))

/-- Two matrices whose product is the identity undo each other on every column. -/
theorem mixWith_mixWith_cancel {m0 m1 m2 m3 n0 n1 n2 n3 : Byte}
    (h0 : gfMul m0 n0 ^^^ gfMul m3 n1 ^^^ gfMul m2 n2 ^^^ gfMul m1 n3 = 1)
    (h1 : gfMul m1 n0 ^^^ gfMul m0 n1 ^^^ gfMul m3 n2 ^^^ gfMul m2 n3 = 0)
    (h2 : gfMul m2 n0 ^^^ gfMul m1 n1 ^^^ gfMul m0 n2 ^^^ gfMul m3 n3 = 0)
    (h3 : gfMul m3 n0 ^^^ gfMul m2 n1 ^^^ gfMul m1 n2 ^^^ gfMul m0 n3 = 0) (v : Quad) :
    mixWith n0 n1 n2 n3 (mixWith m0 m1 m2 m3 v) = v :=
  eq_of_column_eq fun c k hc hk => by
    rw [byteOf_mixWith _ _ _ _ _ hc hk, mixByte_congr _ _ _ _ _ (fun r hr => byteOf_mixWith v m0 m1 m2 m3 hc hr),
      mixByte_mixByte _ _ _ _ _ _ _ _ _ hk, h0, h1, h2, h3, mixByte_identity _ hk]

/-- A state of sixteen equal bytes passes a matrix whose rows sum to 1 unchanged (41_aes.md R116, R117). -/
theorem mixWith_const {m0 m1 m2 m3 : Byte} (h : m0 ^^^ m1 ^^^ m2 ^^^ m3 = 1) (b : Byte) :
    mixWith m0 m1 m2 m3 (ofBytes fun _ => b) = ofBytes fun _ => b :=
  eq_of_column_eq fun c k hc hk => by
    rw [byteOf_mixWith _ _ _ _ _ hc hk, mixByte_congr _ _ _ _ _ (fun r hr => byteOf_ofBytes _ (by omega)),
      mixByte_const, h, gfMul_one, byteOf_ofBytes _ (by omega)]

/-- Settles O25: the two matrices have product 1 in either order, and the rows of each sum to 1. -/
theorem invMixColumnsInverts : Obligations.InvMixColumnsInverts :=
  ⟨mixWith_mixWith_cancel (by decide) (by decide) (by decide) (by decide),
    mixWith_mixWith_cancel (by decide) (by decide) (by decide) (by decide),
    fun b => ⟨mixWith_const (by decide) b, mixWith_const (by decide) b⟩⟩

/-! ## The instructions -/

/-- What every cryptographic instruction does when it executes normally: the result is in `V[d]`, and nothing else but `pc`
changes (41_aes.md R113). -/
theorem cryptoWrite_completes (i : Instr) {d : Nat} (r : Quad) {s : State} (hd : d < 32) (hs : s.CryptoReady) :
    ∃ t, cryptoWrite i d r s = .next t ∧ t.readV d = r ∧ OnlyVAndPc s t d :=
  ⟨_, cryptoWrite_ready i d r s hs, State.readV_writeV_same s r hd, onlyVAndPc_writeV s d r⟩

/-- After a cryptographic instruction the next one executes normally too, while `pc` does not wrap. -/
theorem OnlyVAndPc.cryptoReady {s t : State} {d : Nat} (h : OnlyVAndPc s t d) (hs : s.CryptoReady)
    (hp : s.pc.toNat + 8 < 2 ^ 64) : t.CryptoReady := by
  obtain ⟨he, ha, -⟩ := hs
  have hpc : t.pc.toNat = s.pc.toNat + 4 := by
    rw [h.pc]
    bv_omega
  rw [State.CryptoReady, State.cryptoEnabled, h.rest.params, hpc]
  exact ⟨he, ha, by omega⟩

/-- AESE executes normally (41_aes.md R114). -/
theorem aese_completes {s : State} {d : Nat} (n : Nat) (hd : d < 32) (hs : s.CryptoReady) :
    ∃ t, exec (.aese d n) s = .next t ∧
      t.readV d = aesSubBytes (aesShiftRows (s.readV d ^^^ s.readV n)) ∧ OnlyVAndPc s t d :=
  cryptoWrite_completes (.aese d n) _ hd hs

/-- AESD executes normally (41_aes.md R115). -/
theorem aesd_completes {s : State} {d : Nat} (n : Nat) (hd : d < 32) (hs : s.CryptoReady) :
    ∃ t, exec (.aesd d n) s = .next t ∧
      t.readV d = aesInvSubBytes (aesInvShiftRows (s.readV d ^^^ s.readV n)) ∧ OnlyVAndPc s t d :=
  cryptoWrite_completes (.aesd d n) _ hd hs

/-- Settles O17: AESE writes the state, and each transformation moves or maps single bytes. -/
theorem aeseCompletes : Obligations.AeseCompletes := by
  intro s d n hd _ hs
  obtain ⟨t, hexec, hv, honly⟩ := aese_completes n hd hs
  refine ⟨t, hexec, fun i hi => ?_, honly⟩
  rw [hv, byteOf_aesSubBytes _ hi, byteOf_aesShiftRows _ hi]

/-- Settles O18: as AESE, with the inverse transformations. -/
theorem aesdCompletes : Obligations.AesdCompletes := by
  intro s d n hd _ hs
  obtain ⟨t, hexec, hv, honly⟩ := aesd_completes n hd hs
  refine ⟨t, hexec, fun i hi => ?_, honly⟩
  rw [hv, byteOf_aesInvSubBytes _ hi, byteOf_aesInvShiftRows _ hi]

/-- Settles O19: byte `k` of a column is row `k` of the matrix times the column. -/
theorem aesmcCompletes : Obligations.AesmcCompletes := by
  intro s d n hd _ hs
  obtain ⟨t, hexec, hv, honly⟩ := cryptoWrite_completes (.aesmc d n) (aesMixColumns (s.readV n)) hd hs
  refine ⟨t, hexec, fun c hc => ?_, honly⟩
  have hb {k : Nat} (hk : k < 4) := byteOf_mixWith (s.readV n) 2 3 1 1 hc hk
  simp only [hv, aesMixColumns, hb, Nat.reduceLT, mixByte_at_zero, mixByte_at_one, mixByte_at_two, mixByte_at_three,
    gfMul_one, and_self]

/-- Settles O20: as AESMC, with the inverse matrix. -/
theorem aesimcCompletes : Obligations.AesimcCompletes := by
  intro s d n hd _ hs
  obtain ⟨t, hexec, hv, honly⟩ := cryptoWrite_completes (.aesimc d n) (aesInvMixColumns (s.readV n)) hd hs
  refine ⟨t, hexec, fun c hc => ?_, honly⟩
  have hb {k : Nat} (hk : k < 4) := byteOf_mixWith (s.readV n) 0x0e 0x0b 0x0d 0x09 hc hk
  simp only [hv, aesInvMixColumns, hb, Nat.reduceLT, mixByte_at_zero, mixByte_at_one, mixByte_at_two, mixByte_at_three,
    and_self]

/-- Settles O26: with a zero key AESD is left with the two transformations of AESE to undo, which commute. -/
theorem aesdUndoesAese : Obligations.AesdUndoesAese := by
  intro s d n hd _ hdn hkey hs hp
  obtain ⟨t, haese, ht, honly⟩ := aese_completes n hd hs
  obtain ⟨u, haesd, hu, -⟩ := aesd_completes n hd (honly.cryptoReady hs hp)
  have hkey' : t.readV n = 0 := (honly.v n hdn.symm).trans hkey
  refine ⟨t, u, haese, haesd, ?_⟩
  calc
    u.readV d = aesInvSubBytes (aesInvShiftRows (aesSubBytes (aesShiftRows (s.readV d)))) := by
        simp [hu, hkey', ht, hkey]
    _ = s.readV d := by
        rw [aesSubBytes_aesShiftRows, aesInvShiftRows_aesShiftRows, aesInvSubBytes_aesSubBytes]

end Sys2Proof.Machine

/-! PROOFS of the family `42_pmull.md`: the carry-less product (O28) and PMULL and PMULL2 (O27). A bit vector is read as a
polynomial over GF(2), where the carry-less product is the product of polynomials (42_pmull.md R120), so that its laws are
those of a commutative ring of characteristic 2. -/

namespace Sys2Proof.Machine

/-! ## A bit vector as a polynomial over GF(2) -/

/-- A bit as an element of GF(2). -/
def bitCoeff (b : Bool) : ZMod 2 := b.toNat

theorem bitCoeff_injective : Function.Injective bitCoeff := by decide

theorem bitCoeff_xor : ∀ p q : Bool, bitCoeff (p ^^ q) = bitCoeff p + bitCoeff q := by decide

theorem bitCoeff_eq_zero : ∀ p : Bool, bitCoeff p = 0 ↔ p = false := by decide

/-- The polynomial whose coefficients are the bits of `v` below `k`. -/
noncomputable def polyBelow {w : Nat} (v : BitVec w) (k : Nat) : Polynomial (ZMod 2) :=
  ∑ i ∈ Finset.range k, Polynomial.monomial i (bitCoeff (v.getLsbD i))

/-- The polynomial over GF(2) that `v` stands for: bit `i` is the coefficient of `x^i` (42_pmull.md R120). -/
noncomputable def polyOf {w : Nat} (v : BitVec w) : Polynomial (ZMod 2) := polyBelow v w

theorem polyBelow_succ {w : Nat} (v : BitVec w) (k : Nat) :
    polyBelow v (k + 1) = polyBelow v k + Polynomial.monomial k (bitCoeff (v.getLsbD k)) :=
  Finset.sum_range_succ _ k

@[simp] theorem coeff_polyOf {w : Nat} (v : BitVec w) (k : Nat) : (polyOf v).coeff k = bitCoeff (v.getLsbD k) := by
  simp only [polyOf, polyBelow, Polynomial.finsetSum_coeff, Polynomial.coeff_monomial, Finset.sum_ite_eq',
    Finset.mem_range, ite_eq_left_iff, Nat.not_lt]
  intro hk
  rw [BitVec.getLsbD_of_ge v k hk]
  rfl

theorem polyOf_injective {w : Nat} : Function.Injective (polyOf (w := w)) := by
  intro v u h
  refine BitVec.eq_of_getLsbD_eq fun i _ => bitCoeff_injective ?_
  rw [← coeff_polyOf, h, coeff_polyOf]

theorem polyOf_zero (w : Nat) : polyOf (0 : BitVec w) = 0 := by
  ext k
  rw [coeff_polyOf, BitVec.ofNat_eq_ofNat, BitVec.getLsbD_zero]
  rfl

theorem polyOf_one : polyOf (1 : Word) = 1 := by
  ext k
  rw [coeff_polyOf, Polynomial.coeff_one, BitVec.ofNat_eq_ofNat, BitVec.getLsbD_one]
  by_cases h : k = 0
  case pos => simp [h, bitCoeff]
  case neg => simp [h, bitCoeff]

theorem polyOf_xor {w : Nat} (v u : BitVec w) : polyOf (v ^^^ u) = polyOf v + polyOf u := by
  ext k
  rw [Polynomial.coeff_add, coeff_polyOf, coeff_polyOf, coeff_polyOf, BitVec.getLsbD_xor, bitCoeff_xor]

/-- No bit of a 64-bit value is lost when it is widened to 128 bits and shifted by at most 64. -/
theorem getLsbD_setWidth_shiftLeft (a : Word) {i : Nat} (hi : i ≤ 64) (k : Nat) :
    (a.setWidth 128 <<< i).getLsbD k = (decide (i ≤ k) && a.getLsbD (k - i)) := by
  rw [BitVec.getLsbD_shiftLeft, BitVec.getLsbD_setWidth]
  by_cases hk : k - i < 64
  case pos => simp [show k < 128 by omega, show k - i < 128 by omega, ← decide_not]
  case neg => simp [BitVec.getLsbD_of_ge a _ (Nat.not_lt.1 hk)]

theorem polyOf_setWidth_shiftLeft (a : Word) {i : Nat} (hi : i ≤ 64) :
    polyOf (a.setWidth 128 <<< i) = polyOf a * Polynomial.X ^ i := by
  ext k
  rw [coeff_polyOf, getLsbD_setWidth_shiftLeft a hi, Polynomial.coeff_mul_X_pow', coeff_polyOf]
  by_cases h : i ≤ k
  case pos => simp [h]
  case neg => simp [h, bitCoeff]

theorem polyOf_setWidth (a : Word) : polyOf (a.setWidth 128) = polyOf a := by
  simpa using polyOf_setWidth_shiftLeft a (i := 0) (by decide)

/-! ## The carry-less product is the product of polynomials -/

theorem polyOf_polyMulBits (a b : Word) {k : Nat} (hk : k ≤ 64) : polyOf (polyMulBits a b k) = polyOf a * polyBelow b k := by
  induction k with
  | zero => rw [polyMulBits, polyOf_zero, polyBelow, Finset.range_zero, Finset.sum_empty, mul_zero]
  | succ k ih =>
    rw [polyMulBits, polyOf_xor, ih (by omega), polyBelow_succ, mul_add, apply_ite polyOf, polyOf_zero,
      polyOf_setWidth_shiftLeft a (by omega)]
    cases b.getLsbD k
    case false => simp [bitCoeff]
    case true => simp [bitCoeff, Polynomial.monomial_one_right_eq_X_pow]

theorem polyOf_polyMul64 (a b : Word) : polyOf (polyMul64 a b) = polyOf a * polyOf b :=
  polyOf_polyMulBits a b (Nat.le_refl 64)

theorem polyMul64_comm (a b : Word) : polyMul64 a b = polyMul64 b a :=
  polyOf_injective (by rw [polyOf_polyMul64, polyOf_polyMul64, mul_comm])

theorem polyMul64_xor_right (a b c : Word) : polyMul64 a (b ^^^ c) = polyMul64 a b ^^^ polyMul64 a c :=
  polyOf_injective (by rw [polyOf_xor, polyOf_polyMul64, polyOf_polyMul64, polyOf_polyMul64, polyOf_xor, mul_add])

theorem polyMul64_zero (a : Word) : polyMul64 a 0 = 0 :=
  polyOf_injective (by rw [polyOf_polyMul64, polyOf_zero, polyOf_zero, mul_zero])

theorem polyMul64_one (a : Word) : polyMul64 a 1 = a.setWidth 128 :=
  polyOf_injective (by rw [polyOf_polyMul64, polyOf_one, mul_one, polyOf_setWidth])

/-- Two factors of degree at most 63 have a product of degree at most 126. -/
theorem natDegree_polyOf_le (a : Word) : (polyOf a).natDegree ≤ 63 :=
  Polynomial.natDegree_le_iff_coeff_eq_zero.2 fun k hk => by
    rw [coeff_polyOf, BitVec.getLsbD_of_ge a k hk]
    rfl

/-- Bit 127 is a coefficient above the degree of any product (42_pmull.md R120). -/
theorem getLsbD_polyMul64_top (a b : Word) : (polyMul64 a b).getLsbD 127 = false := by
  have hdeg : (polyOf a * polyOf b).natDegree < 127 :=
    Nat.lt_succ_of_le (Polynomial.natDegree_mul_le_of_le (natDegree_polyOf_le a) (natDegree_polyOf_le b))
  rw [← bitCoeff_eq_zero, ← coeff_polyOf, polyOf_polyMul64, Polynomial.coeff_eq_zero_of_natDegree_lt hdeg]

/-- Squaring in characteristic 2 puts `x^2` for `x` (42_pmull.md R121). -/
theorem polyOf_polyMul64_self (a : Word) : polyOf (polyMul64 a a) = Polynomial.expand (ZMod 2) 2 (polyOf a) := by
  rw [polyOf_polyMul64, ZMod.expand_card, sq]

theorem getLsbD_polyMul64_self_even (a : Word) (i : Nat) : (polyMul64 a a).getLsbD (2 * i) = a.getLsbD i := by
  apply bitCoeff_injective
  rw [← coeff_polyOf, polyOf_polyMul64_self, Polynomial.coeff_expand_mul' (by decide), coeff_polyOf]

theorem getLsbD_polyMul64_self_odd (a : Word) (i : Nat) : (polyMul64 a a).getLsbD (2 * i + 1) = false := by
  rw [← bitCoeff_eq_zero, ← coeff_polyOf, polyOf_polyMul64_self, Polynomial.coeff_expand (by decide), if_neg (by omega)]

/-! ## The carry-less product bit by bit -/

theorem getLsbD_polyMulBits (a b : Word) (k : Nat) {n : Nat} (hn : n ≤ 64) : (polyMulBits a b n).getLsbD k =
    (List.range n).foldl (fun acc i => acc ^^ (b.getLsbD i && decide (i ≤ k) && a.getLsbD (k - i))) false := by
  induction n with
  | zero => simp [polyMulBits]
  | succ n ih =>
    rw [polyMulBits, BitVec.getLsbD_xor, ih (by omega), List.range_succ, List.foldl_append, List.foldl_cons,
      List.foldl_nil, Bool.and_assoc, ← getLsbD_setWidth_shiftLeft a (by omega)]
    cases b.getLsbD n
    case false => simp
    case true => simp

theorem getLsbD_polyMul64 (a b : Word) (k : Nat) : (polyMul64 a b).getLsbD k = Reference.polyMulBit a b k :=
  getLsbD_polyMulBits a b k (Nat.le_refl 64)

/-- Settles O28: the carry-less product is the product of polynomials over GF(2). -/
theorem polyMulLaws : Obligations.PolyMulLaws :=
  ⟨fun a b k _ => getLsbD_polyMul64 a b k, polyMul64_comm, polyMul64_xor_right,
    fun a => ⟨polyMul64_zero a, polyMul64_one a⟩, getLsbD_polyMul64_top,
    fun a i _ => ⟨getLsbD_polyMul64_self_even a i, getLsbD_polyMul64_self_odd a i⟩⟩

/-! ## The instructions -/

/-- What both forms have in common: an instruction that writes the product of `a` and `b` to `V[d]` completes with it, bit by
bit (42_pmull.md R121, R122). -/
theorem cryptoWrite_polyMul64_completes (i : Instr) (a b : Word) {d : Nat} {s : State} (hd : d < 32) (hs : s.CryptoReady) :
    ∃ t, cryptoWrite i d (polyMul64 a b) s = .next t ∧
      (∀ k, k < 128 → (t.readV d).getLsbD k = Reference.polyMulBit a b k) ∧ OnlyVAndPc s t d := by
  obtain ⟨t, hexec, hv, honly⟩ := cryptoWrite_completes i (polyMul64 a b) hd hs
  exact ⟨t, hexec, fun k _ => hv ▸ getLsbD_polyMul64 a b k, honly⟩

/-- Settles O27: the two forms write the product of the low and of the high halves. -/
theorem pmullCompletes : Obligations.PmullCompletes := fun _ d n m hd _ _ hs =>
  ⟨cryptoWrite_polyMul64_completes (.pmull d n m) _ _ hd hs, cryptoWrite_polyMul64_completes (.pmull2 d n m) _ _ hd hs⟩

end Sys2Proof.Machine

/-! PROOFS of the family `43_sha1.md`: the hash updates (O29), the fixed rotate (O30), the two schedule updates (O31, O32),
and the two compositions (O33, O34). -/

namespace Sys2Proof.Machine

/-! ## Rotation -/

/-- The two parts a rotation is put together from do not meet in any bit (00_scope.md R13). -/
theorem getLsbD_rol {w : Nat} (x : BitVec w) {n i : Nat} (hi : i < w) :
    (rol x n).getLsbD i = if i < n then x.getLsbD (w - n + i) else x.getLsbD (i - n) := by
  rw [rol, BitVec.getLsbD_or, BitVec.getLsbD_shiftLeft, BitVec.getLsbD_ushiftRight]
  split
  case isTrue h => simp [h]
  case isFalse h => simp [h, hi, BitVec.getLsbD_of_ge x (w - n + i) (by omega)]

theorem rol_xor {w : Nat} (x y : BitVec w) (n : Nat) : rol (x ^^^ y) n = rol x n ^^^ rol y n := by
  apply BitVec.eq_of_getLsbD_eq
  intro i hi
  rw [BitVec.getLsbD_xor, getLsbD_rol _ hi, getLsbD_rol _ hi, getLsbD_rol _ hi]
  split
  case isTrue => exact BitVec.getLsbD_xor
  case isFalse => exact BitVec.getLsbD_xor

theorem rol_rol {w : Nat} (x : BitVec w) {m n : Nat} (h : m + n ≤ w) : rol (rol x m) n = rol x (m + n) := by
  apply BitVec.eq_of_getLsbD_eq
  intro i hi
  rw [getLsbD_rol _ hi, getLsbD_rol _ hi]
  by_cases hin : i < n
  case pos =>
    rw [if_pos hin, if_pos (by omega), getLsbD_rol _ (by omega), if_neg (by omega)]
    congr 1
    omega
  case neg =>
    have hlow : i - n < m ↔ i < m + n := by omega
    rw [if_neg hin, getLsbD_rol _ (by omega)]
    simp only [hlow, show w - m + (i - n) = w - (m + n) + i by omega, show i - n - m = i - (m + n) by omega]

/-! ## Lanes -/

theorem laneOf_xor (v u : Quad) (e : Nat) : laneOf (v ^^^ u) e = laneOf v e ^^^ laneOf u e :=
  BitVec.extractLsb'_xor

/-- The scalar view holds the value in lane 0 and zeros above (10_state.md R53). -/
theorem laneOf_scalarOf (x : Lane) (e : Nat) : laneOf (scalarOf x) e = if e = 0 then x else 0 := by
  apply BitVec.eq_of_getLsbD_eq
  intro i hi
  rw [laneOf, scalarOf, BitVec.getLsbD_extractLsb', BitVec.getLsbD_setWidth]
  split
  case isTrue h => simp [h, hi, show i < 128 by omega]
  case isFalse h => simp [BitVec.getLsbD_of_ge x (32 * e + i) (by omega)]

/-- A shift right by 32 bits moves every lane down by one. -/
theorem laneOf_lsr (v : Quad) (e : Nat) : laneOf (lsr v 32) e = laneOf v (e + 1) := by
  apply BitVec.eq_of_getLsbD_eq
  intro i hi
  rw [laneOf, lsr, laneOf, BitVec.getLsbD_extractLsb', BitVec.getLsbD_extractLsb', BitVec.getLsbD_ushiftRight,
    show 32 + (32 * e + i) = 32 * (e + 1) + i by omega]

/-- Above lane 3 a register holds nothing. -/
theorem laneOf_four (v : Quad) : laneOf v 4 = 0 := by
  apply BitVec.eq_of_getLsbD_eq
  intro i hi
  simp [laneOf]

/-! ## Schedule words in a list of registers -/

/-- Lane `i` of register `r` of a list is schedule word `4 * r + i`. -/
theorem scheduleWord_lane (regs : List Quad) (r : Nat) {i : Nat} (hi : i < 4) :
    Reference.scheduleWord regs (4 * r + i) = laneOf (regs.getD r 0) i := by
  rw [Reference.scheduleWord, show (4 * r + i) / 4 = r by omega, show (4 * r + i) % 4 = i by omega]

/-- The first four words are the lanes of the first register. -/
theorem scheduleWord_head (v : Quad) (regs : List Quad) {i : Nat} (hi : i < 4) :
    Reference.scheduleWord (v :: regs) i = laneOf v i := by
  rw [Reference.scheduleWord, Nat.div_eq_of_lt hi, Nat.mod_eq_of_lt hi, List.getD_cons_zero]

/-- Registers put after a list do not change its words. -/
theorem scheduleWord_append (regs more : List Quad) {k : Nat} (hk : k < 4 * regs.length) :
    Reference.scheduleWord (regs ++ more) k = Reference.scheduleWord regs k := by
  rw [Reference.scheduleWord, List.getD_append _ _ _ _ (by omega), Reference.scheduleWord]

/-- Without its first register a list starts four words later. -/
theorem scheduleWord_cons (v : Quad) (regs : List Quad) (k : Nat) :
    Reference.scheduleWord (v :: regs) (4 + k) = Reference.scheduleWord regs k := by
  rw [Reference.scheduleWord, show (4 + k) / 4 = k / 4 + 1 by omega, Nat.add_mod_left, List.getD_cons_succ,
    Reference.scheduleWord]

/-! ## The two schedule updates -/

/-- The two halves SHA1SU0 puts together are the words from `W[t-14]` on (43_sha1.md R130). -/
theorem laneOf_halves (x y : Quad) {i : Nat} (hi : i < 4) :
    laneOf (halfOf y 0 ++ halfOf x 1) i = Reference.scheduleWord [x, y] (2 + i) := by
  apply BitVec.eq_of_getLsbD_eq
  intro j hj
  rw [laneOf, BitVec.getLsbD_extractLsb', BitVec.getLsbD_append]
  rcases Nat.lt_or_ge i 2 with hlow | hhigh
  case inl =>
    rw [scheduleWord_head _ _ (by omega)]
    simp [laneOf, halfOf, hj, show 32 * i + j < 64 by omega, show 32 * (2 + i) + j = 64 + (32 * i + j) by omega]
  case inr =>
    obtain ⟨k, rfl⟩ := Nat.exists_eq_add_of_le hhigh
    rw [show 2 + (2 + k) = 4 + k by omega, scheduleWord_cons, scheduleWord_head _ _ (by omega)]
    simp [laneOf, halfOf, hj, show 32 * (2 + k) + j = 64 + (32 * k + j) by omega, show 32 * k + j < 64 by omega]

theorem laneOf_sha1Schedule0 (x y z : Quad) {i : Nat} (hi : i < 4) :
    laneOf (sha1Schedule0 x y z) i = Reference.scheduleWord [x, y, z] (2 + i) ^^^
      Reference.scheduleWord [x, y, z] i ^^^ Reference.scheduleWord [x, y, z] (8 + i) := by
  have hxy : Reference.scheduleWord [x, y, z] (2 + i) = Reference.scheduleWord [x, y] (2 + i) :=
    scheduleWord_append [x, y] [z] (show 2 + i < 8 by omega)
  have hz : Reference.scheduleWord [x, y, z] (8 + i) = laneOf z i := scheduleWord_lane [x, y, z] 2 hi
  rw [sha1Schedule0, laneOf_xor, laneOf_xor, laneOf_halves x y hi, scheduleWord_head _ _ hi, hxy, hz]

theorem laneOf_sha1Schedule1_of_lt_three (x y : Quad) {i : Nat} (hi : i < 3) :
    laneOf (sha1Schedule1 x y) i = rol (laneOf x i ^^^ laneOf y (i + 1)) 1 := by
  rw [sha1Schedule1, laneOf_ofLanes _ (by omega), if_neg (by omega), laneOf_xor, laneOf_lsr]

/-- Lane 3 rotates the new lane 0, which is rotated once already (43_sha1.md R131). -/
theorem laneOf_sha1Schedule1_three (x y : Quad) :
    laneOf (sha1Schedule1 x y) 3 = rol (laneOf x 3 ^^^ laneOf (sha1Schedule1 x y) 0) 1 := by
  have h0 : laneOf (sha1Schedule1 x y) 0 = rol (laneOf x 0 ^^^ laneOf y 1) 1 :=
    laneOf_sha1Schedule1_of_lt_three x y (by decide)
  have h3 : laneOf (sha1Schedule1 x y) 3 = rol (laneOf x 3) 1 ^^^ rol (laneOf x 0 ^^^ laneOf y 1) 2 := by
    rw [sha1Schedule1, laneOf_ofLanes _ (by decide), if_pos rfl, laneOf_xor, laneOf_xor, laneOf_lsr, laneOf_lsr,
      laneOf_four, BitVec.ofNat_eq_ofNat, BitVec.xor_zero]
  rw [h3, h0, rol_xor (laneOf x 3), rol_rol _ (by decide)]

/-- Both cases are one rule when the result stands after `y` in the schedule: lane `i` takes `W[t+i-3]`
(43_sha1.md R131). -/
theorem laneOf_sha1Schedule1 (x y : Quad) {i : Nat} (hi : i < 4) :
    laneOf (sha1Schedule1 x y) i =
      rol (laneOf x i ^^^ Reference.scheduleWord [y, sha1Schedule1 x y] (1 + i)) 1 := by
  rcases Nat.lt_succ_iff_lt_or_eq.1 hi with hlt | rfl
  case inl =>
    rw [laneOf_sha1Schedule1_of_lt_three x y hlt, scheduleWord_head _ _ (by omega), Nat.add_comm i 1]
  case inr => exact laneOf_sha1Schedule1_three x y

/-! ## The rounds -/

/-- One iteration of the instruction's loop is one SHA-1 round, with `e` in `Y` (43_sha1.md R126). -/
theorem sha1Vars_sha1Round (f : Lane → Lane → Lane → Lane) (w : Lane) (yx : Lane × Quad) :
    Reference.sha1Vars (sha1Round f w yx).2 (sha1Round f w yx).1 =
      Reference.sha1Round f (Reference.sha1Vars yx.2 yx.1) w := by
  simp [sha1Round, Reference.sha1Vars, Reference.sha1Round, rol160_fst, laneOf_rol160_snd, laneOf_setLane]

theorem sha1Vars_sha1Rounds (f : Lane → Lane → Lane → Lane) (w : Quad) (yx : Lane × Quad) (k : Nat) :
    Reference.sha1Vars (sha1Rounds f w yx k).2 (sha1Rounds f w yx k).1 =
      ((List.range k).map (laneOf w)).foldl (Reference.sha1Round f) (Reference.sha1Vars yx.2 yx.1) := by
  induction k with
  | zero => rfl
  | succ k ih =>
    rw [sha1Rounds, sha1Vars_sha1Round, ih, List.range_succ, List.map_append, List.foldl_append]
    rfl

/-- `a` moves through b, c and d in four rounds and is rotated once on its way (43_sha1.md R126, R129). -/
theorem sha1FourRounds_e (f : Lane → Lane → Lane → Lane) (w : Quad) (v : Reference.Sha1Vars) :
    (Reference.sha1FourRounds f w v).e = rol v.a 30 := rfl

/-- The update leaves a to d after four rounds in the register; the fifth variable is the rotated `a`. -/
theorem sha1Vars_sha1Update (f : Lane → Lane → Lane → Lane) (x : Quad) (y : Lane) (w : Quad) :
    Reference.sha1Vars (sha1Update f x y w) (rol (laneOf x 0) 30) =
      Reference.sha1FourRounds f w (Reference.sha1Vars x y) := by
  have h : Reference.sha1Vars (sha1Update f x y w) (sha1Rounds f w (y, x) 4).1 =
      Reference.sha1FourRounds f w (Reference.sha1Vars x y) := sha1Vars_sha1Rounds f w (y, x) 4
  have he : (sha1Rounds f w (y, x) 4).1 = rol (laneOf x 0) 30 :=
    (congrArg Reference.Sha1Vars.e h).trans (sha1FourRounds_e f w _)
  rw [← he, h]

/-! ## The instructions -/

/-- The three hash updates are one instruction in the round function (43_sha1.md R126 to R128). -/
theorem exec_sha1Update {i : Instr} {f : Lane → Lane → Lane → Lane} {d n m : Nat}
    (hi : i = .sha1c d n m ∧ f = shaChoose ∨ i = .sha1p d n m ∧ f = shaParity ∨ i = .sha1m d n m ∧ f = shaMajority)
    (s : State) :
    exec i s = cryptoWrite i d (sha1Update f (s.readV d) (laneOf (s.readV n) 0) (s.readV m)) s := by
  rcases hi with ⟨rfl, rfl⟩ | ⟨rfl, rfl⟩ | ⟨rfl, rfl⟩
  case inl => rfl
  case inr.inl => rfl
  case inr.inr => rfl

/-- SHA1H executes normally (43_sha1.md R129). -/
theorem sha1h_completes {s : State} {d : Nat} (n : Nat) (hd : d < 32) (hs : s.CryptoReady) :
    ∃ t, exec (.sha1h d n) s = .next t ∧ t.readV d = scalarOf (rol (laneOf (s.readV n) 0) 30) ∧ OnlyVAndPc s t d :=
  cryptoWrite_completes (.sha1h d n) _ hd hs

/-- SHA1SU0 executes normally (43_sha1.md R130). -/
theorem sha1su0_completes {s : State} {d : Nat} (n m : Nat) (hd : d < 32) (hs : s.CryptoReady) :
    ∃ t, exec (.sha1su0 d n m) s = .next t ∧
      t.readV d = sha1Schedule0 (s.readV d) (s.readV n) (s.readV m) ∧ OnlyVAndPc s t d :=
  cryptoWrite_completes (.sha1su0 d n m) _ hd hs

/-- SHA1SU1 executes normally (43_sha1.md R131). -/
theorem sha1su1_completes {s : State} {d : Nat} (n : Nat) (hd : d < 32) (hs : s.CryptoReady) :
    ∃ t, exec (.sha1su1 d n) s = .next t ∧ t.readV d = sha1Schedule1 (s.readV d) (s.readV n) ∧ OnlyVAndPc s t d :=
  cryptoWrite_completes (.sha1su1 d n) _ hd hs

/-- Settles O29: the three differ in the round function alone, and each writes the register after four rounds. -/
theorem sha1HashUpdatesComplete : Obligations.Sha1HashUpdatesComplete := by
  intro s d n m hd _ _ hs start i f hi
  obtain ⟨t, hexec, hv, honly⟩ := cryptoWrite_completes i _ hd hs
  refine ⟨t, (exec_sha1Update hi s).trans hexec, ?_, honly⟩
  rw [sha1FourRounds_e, hv]
  exact sha1Vars_sha1Update f _ _ _

/-- Settles O30: the scalar view writes the rotated lane below zeros. -/
theorem sha1hCompletes : Obligations.Sha1hCompletes := by
  intro s d n hd _ hs
  obtain ⟨t, hexec, hv, honly⟩ := sha1h_completes n hd hs
  refine ⟨t, hexec, ?_, fun e he _ => ?_, honly⟩
  · rw [hv, laneOf_scalarOf, if_pos rfl]
  · rw [hv, laneOf_scalarOf, if_neg (by omega)]

/-- Settles O31: the result's lanes are the words two, zero and eight after those of `V[d]`. -/
theorem sha1su0Completes : Obligations.Sha1su0Completes := by
  intro s d n m hd _ _ hs
  obtain ⟨t, hexec, hv, honly⟩ := sha1su0_completes n m hd hs
  exact ⟨t, hexec, fun i hi => hv ▸ laneOf_sha1Schedule0 _ _ _ hi, honly⟩

/-- Settles O32: lanes 0 to 2 read off the result, and in lane 3 two rotations by 1 make the one by 2. -/
theorem sha1su1Completes : Obligations.Sha1su1Completes := by
  intro s d n hd _ hs
  obtain ⟨t, hexec, hv, honly⟩ := sha1su1_completes n hd hs
  refine ⟨t, hexec, fun i hi => ?_, ?_, honly⟩
  · rw [hv, laneOf_sha1Schedule1_of_lt_three _ _ hi]
  · rw [hv, ← laneOf_sha1Schedule1_three]

/-- Settles O33: the second update adds `W[t+i-3]` to the three words of the first and rotates. -/
theorem sha1ScheduleComposes : Obligations.Sha1ScheduleComposes := by
  intro s d n m k hd _ _ _ hdk hs hp
  obtain ⟨t, hsu0, ht, honly⟩ := sha1su0_completes n m hd hs
  obtain ⟨u, hsu1, hu, -⟩ := sha1su1_completes k hd (honly.cryptoReady hs hp)
  refine ⟨t, u, hsu0, hsu1, ?_⟩
  intro w i hi
  have hk : t.readV k = s.readV k := honly.v k hdk.symm
  have hfirst {j : Nat} (hj : j < 12) : w j = Reference.scheduleWord [s.readV d, s.readV n, s.readV m] j :=
    scheduleWord_append [s.readV d, s.readV n, s.readV m] [s.readV k, u.readV d] hj
  have hlast : w (13 + i) = Reference.scheduleWord [s.readV k, u.readV d] (1 + i) := by
    rw [show 13 + i = 4 + (4 + (4 + (1 + i))) by omega]
    simp only [w, scheduleWord_cons]
  have hlane0 : laneOf (t.readV d) i = w (2 + i) ^^^ w i ^^^ w (8 + i) := by
    rw [ht, laneOf_sha1Schedule0 _ _ _ hi, hfirst (by omega), hfirst (by omega), hfirst (by omega)]
  have hlane1 : laneOf (u.readV d) i = rol (laneOf (t.readV d) i ^^^ w (13 + i)) 1 := by
    rw [hlast, hu, hk]
    exact laneOf_sha1Schedule1 _ _ hi
  calc
    w (16 + i) = laneOf (u.readV d) i :=
        scheduleWord_lane [s.readV d, s.readV n, s.readV m, s.readV k, u.readV d] 4 hi
    _ = rol (w (2 + i) ^^^ w i ^^^ w (8 + i) ^^^ w (13 + i)) 1 := by rw [hlane1, hlane0]
    _ = rol (w (13 + i) ^^^ w (8 + i) ^^^ w (2 + i) ^^^ w i) 1 := by ac_rfl

/-- Settles O34: SHA1H saves the rotated `a`, which is the new `e`, before the update overwrites it. -/
theorem sha1FourRoundsOfTwoInstructions : Obligations.Sha1FourRoundsOfTwoInstructions := by
  intro s q e x m hq _ hx _ hxq hxe hxm hs hp i f hi
  obtain ⟨t, hsha1h, ht, honly⟩ := sha1h_completes q hx hs
  obtain ⟨u, hupdate, hu, huonly⟩ := cryptoWrite_completes i _ hq (honly.cryptoReady hs hp)
  refine ⟨t, u, hsha1h, (exec_sha1Update hi t).trans hupdate, ?_⟩
  rw [hu, huonly.v x hxq, ht, laneOf_scalarOf, if_pos rfl, honly.v q hxq.symm, honly.v e hxe.symm, honly.v m hxm.symm,
    sha1Vars_sha1Update]

end Sys2Proof.Machine

/-! PROOFS of the family `44_sha256.md`: the hash updates (O35, O36), the two schedule updates (O37, O38), and the two
compositions (O39, O40). -/

namespace Sys2Proof.Machine

/-! ## The rounds -/

/-- One iteration of the instructions' loop is one SHA-256 round, with a to d in `X` and e to h in `Y` (44_sha256.md R140). -/
theorem sha256Vars_sha256Round (w : Lane) (yx : Quad × Quad) :
    Reference.sha256Vars (sha256Round w yx).2 (sha256Round w yx).1 =
      Reference.sha256Round (Reference.sha256Vars yx.2 yx.1) w := by
  simp [sha256Round, Reference.sha256Vars, Reference.sha256Round, laneOf_rol256_fst, laneOf_rol256_snd, laneOf_setLane,
    BitVec.add_comm (laneOf yx.2 3)]

theorem sha256Vars_sha256Rounds (w : Quad) (yx : Quad × Quad) (k : Nat) :
    Reference.sha256Vars (sha256Rounds w yx k).2 (sha256Rounds w yx k).1 =
      ((List.range k).map (laneOf w)).foldl Reference.sha256Round (Reference.sha256Vars yx.2 yx.1) := by
  induction k with
  | zero => rfl
  | succ k ih =>
    rw [sha256Rounds, sha256Vars_sha256Round, ih, List.range_succ, List.map_append, List.foldl_append]
    rfl

/-- The two parts of the hash update together are the eight variables after four rounds (44_sha256.md R140). -/
theorem sha256Vars_sha256Hash (x y w : Quad) :
    Reference.sha256Vars (sha256Hash x y w true) (sha256Hash x y w false) =
      Reference.sha256FourRounds w (Reference.sha256Vars x y) :=
  sha256Vars_sha256Rounds w (y, x) 4

/-! ## The two schedule updates -/

/-- The lanes of four concatenated lanes, the last one lowest. -/
theorem laneOf_append (a b c d : Lane) {i : Nat} (hi : i < 4) : laneOf (d ++ c ++ b ++ a) i = [a, b, c, d].getD i 0 :=
  laneOf_ofLanes ([a, b, c, d].getD · 0) hi

/-- The value both updates put together from two registers holds their words from the second on (44_sha256.md R143, R144). -/
theorem laneOf_nextWords (x y : Quad) {i : Nat} (hi : i < 4) :
    laneOf (laneOf y 0 ++ x.extractLsb' 32 96) i = Reference.scheduleWord [x, y] (1 + i) := by
  apply BitVec.eq_of_getLsbD_eq
  intro j hj
  rw [laneOf, BitVec.getLsbD_extractLsb', BitVec.getLsbD_append]
  rcases Nat.lt_succ_iff_lt_or_eq.1 hi with hlt | rfl
  case inl =>
    rw [scheduleWord_head _ _ (by omega)]
    simp [laneOf, hj, show 32 * i + j < 96 by omega, show 32 * (1 + i) + j = 32 + (32 * i + j) by omega]
  case inr =>
    rw [scheduleWord_cons x [y] 0, scheduleWord_head _ _ (by decide)]
    simp [hj]

theorem laneOf_sha256Schedule0 (x y : Quad) {i : Nat} (hi : i < 4) :
    laneOf (sha256Schedule0 x y) i =
      Reference.scheduleWord [x, y] i + shaScheduleSigma0 (Reference.scheduleWord [x, y] (i + 1)) := by
  rw [sha256Schedule0, laneOf_ofLanes _ hi, laneOf_nextWords x y hi, scheduleWord_head _ _ hi, Nat.add_comm i, BitVec.add_comm]

/-- Lanes 0 and 1 take the upper half of `z` (44_sha256.md R144). -/
theorem laneOf_sha256Schedule1_low (x y z : Quad) {i : Nat} (hi : i < 2) :
    laneOf (sha256Schedule1 x y z) i =
      shaScheduleSigma1 (laneOf z (2 + i)) + laneOf x i + Reference.scheduleWord [y, z] (1 + i) := by
  rw [sha256Schedule1, laneOf_append _ _ _ _ (by omega), ← laneOf_nextWords y z (by omega)]
  interval_cases i
  · rfl
  · rfl

/-- Lanes 2 and 3 take the two lanes just produced (44_sha256.md R144). -/
theorem laneOf_sha256Schedule1_high (x y z : Quad) {i : Nat} (hi : i < 2) :
    laneOf (sha256Schedule1 x y z) (2 + i) = shaScheduleSigma1 (laneOf (sha256Schedule1 x y z) i) + laneOf x (2 + i) +
      Reference.scheduleWord [y, z] (1 + (2 + i)) := by
  rw [sha256Schedule1, laneOf_append _ _ _ _ (by omega), laneOf_append _ _ _ _ (by omega), ← laneOf_nextWords y z (by omega)]
  interval_cases i
  · rfl
  · rfl

/-- Both cases are one rule when the result stands after `y` and `z` in the schedule: lane `i` takes `W[t-2+i]`
(44_sha256.md R144). -/
theorem laneOf_sha256Schedule1 (x y z : Quad) {i : Nat} (hi : i < 4) :
    laneOf (sha256Schedule1 x y z) i =
      shaScheduleSigma1 (Reference.scheduleWord [z, sha256Schedule1 x y z] (2 + i)) + laneOf x i +
        Reference.scheduleWord [y, z] (1 + i) := by
  rcases Nat.lt_or_ge i 2 with hlow | hhigh
  case inl => rw [scheduleWord_head _ _ (by omega), laneOf_sha256Schedule1_low x y z hlow]
  case inr =>
    obtain ⟨j, rfl⟩ := Nat.exists_eq_add_of_le hhigh
    rw [show 2 + (2 + j) = 4 + j by omega, scheduleWord_cons, scheduleWord_head _ _ (by omega),
      laneOf_sha256Schedule1_high x y z (by omega)]

/-! ## The instructions -/

/-- SHA256H executes normally (44_sha256.md R141). -/
theorem sha256h_completes {s : State} {d : Nat} (n m : Nat) (hd : d < 32) (hs : s.CryptoReady) :
    ∃ t, exec (.sha256h d n m) s = .next t ∧
      t.readV d = sha256Hash (s.readV d) (s.readV n) (s.readV m) true ∧ OnlyVAndPc s t d :=
  cryptoWrite_completes (.sha256h d n m) _ hd hs

/-- SHA256H2 executes normally (44_sha256.md R142). -/
theorem sha256h2_completes {s : State} {d : Nat} (n m : Nat) (hd : d < 32) (hs : s.CryptoReady) :
    ∃ t, exec (.sha256h2 d n m) s = .next t ∧
      t.readV d = sha256Hash (s.readV n) (s.readV d) (s.readV m) false ∧ OnlyVAndPc s t d :=
  cryptoWrite_completes (.sha256h2 d n m) _ hd hs

/-- SHA256SU0 executes normally (44_sha256.md R143). -/
theorem sha256su0_completes {s : State} {d : Nat} (n : Nat) (hd : d < 32) (hs : s.CryptoReady) :
    ∃ t, exec (.sha256su0 d n) s = .next t ∧ t.readV d = sha256Schedule0 (s.readV d) (s.readV n) ∧ OnlyVAndPc s t d :=
  cryptoWrite_completes (.sha256su0 d n) _ hd hs

/-- SHA256SU1 executes normally (44_sha256.md R144). -/
theorem sha256su1_completes {s : State} {d : Nat} (n m : Nat) (hd : d < 32) (hs : s.CryptoReady) :
    ∃ t, exec (.sha256su1 d n m) s = .next t ∧
      t.readV d = sha256Schedule1 (s.readV d) (s.readV n) (s.readV m) ∧ OnlyVAndPc s t d :=
  cryptoWrite_completes (.sha256su1 d n m) _ hd hs

/-- Settles O35: SHA256H writes the first part of the hash update, the variables a to d. -/
theorem sha256hCompletes : Obligations.Sha256hCompletes := by
  intro s d n m hd _ _ hs
  obtain ⟨t, hexec, hv, honly⟩ := sha256h_completes n m hd hs
  refine ⟨t, hexec, ?_, honly⟩
  rw [hv, ← sha256Vars_sha256Hash]
  exact ⟨rfl, rfl, rfl, rfl⟩

/-- Settles O36: SHA256H2 writes the second part of the hash update, the variables e to h. -/
theorem sha256h2Completes : Obligations.Sha256h2Completes := by
  intro s d n m hd _ _ hs
  obtain ⟨t, hexec, hv, honly⟩ := sha256h2_completes n m hd hs
  refine ⟨t, hexec, ?_, honly⟩
  rw [hv, ← sha256Vars_sha256Hash]
  exact ⟨rfl, rfl, rfl, rfl⟩

/-- Settles O37: a lane of the result is the word of its own place and sigma0 of the next one. -/
theorem sha256su0Completes : Obligations.Sha256su0Completes := by
  intro s d n hd _ hs
  obtain ⟨t, hexec, hv, honly⟩ := sha256su0_completes n hd hs
  exact ⟨t, hexec, fun i hi => hv ▸ laneOf_sha256Schedule0 _ _ hi, honly⟩

/-- Settles O38: with the result put after `V[n]` and `V[m]` its four lanes follow one rule. -/
theorem sha256su1Completes : Obligations.Sha256su1Completes := by
  intro s d n m hd _ _ hs
  obtain ⟨t, hexec, hv, honly⟩ := sha256su1_completes n m hd hs
  refine ⟨t, hexec, ?_, honly⟩
  intro w i hi
  have hsigma : w (6 + i) = Reference.scheduleWord [s.readV m, t.readV d] (2 + i) := by
    rw [show 6 + i = 4 + (2 + i) by omega]
    exact scheduleWord_cons _ _ _
  have hadd : w (1 + i) = Reference.scheduleWord [s.readV n, s.readV m] (1 + i) :=
    scheduleWord_append [s.readV n, s.readV m] [t.readV d] (show 1 + i < 8 by omega)
  calc
    w (8 + i) = laneOf (t.readV d) i := scheduleWord_lane [s.readV n, s.readV m, t.readV d] 2 hi
    _ = shaScheduleSigma1 (w (6 + i)) + laneOf (s.readV d) i + w (1 + i) := by
        rw [hsigma, hadd, hv]
        exact laneOf_sha256Schedule1 _ _ _ hi
    _ = shaScheduleSigma1 (w (6 + i)) + w (1 + i) + laneOf (s.readV d) i := by ac_rfl

/-- Settles O39: the second update adds sigma1 of `W[t-2+i]` and `W[t-7+i]` to the lanes of the first. -/
theorem sha256ScheduleComposes : Obligations.Sha256ScheduleComposes := by
  intro s d n m k hd hn hm hk hdm hdk hs hp
  obtain ⟨t, hsu0, hlane0, honly⟩ := sha256su0Completes s d n hd hn hs
  obtain ⟨u, hsu1, hlane1, -⟩ := sha256su1Completes t d m k hd hm hk (honly.cryptoReady hs hp)
  refine ⟨t, u, hsu0, hsu1, ?_⟩
  intro w i hi
  have hfirst {j : Nat} (hj : j < 8) : Reference.scheduleWord [s.readV d, s.readV n] j = w j :=
    (scheduleWord_append [s.readV d, s.readV n] [s.readV m, s.readV k, u.readV d] hj).symm
  have hlast (j : Nat) : Reference.scheduleWord [t.readV m, t.readV k, u.readV d] j = w (4 + (4 + j)) := by
    rw [honly.v m hdm.symm, honly.v k hdk.symm]
    simp only [w, scheduleWord_cons]
  have hsu0lane : laneOf (t.readV d) i = w i + shaScheduleSigma0 (w (1 + i)) := by
    rw [hlane0 i hi, hfirst (by omega), hfirst (by omega), Nat.add_comm i 1]
    rfl
  have hsu1lane : w (16 + i) = shaScheduleSigma1 (w (14 + i)) + w (9 + i) + laneOf (t.readV d) i := by
    have h := hlane1 i hi
    simp only [hlast, ← Nat.add_assoc, Nat.reduceAdd] at h
    exact h
  calc
    w (16 + i) = shaScheduleSigma1 (w (14 + i)) + w (9 + i) + (w i + shaScheduleSigma0 (w (1 + i))) := by
        rw [hsu1lane, hsu0lane]
    _ = shaScheduleSigma1 (w (14 + i)) + w (9 + i) + shaScheduleSigma0 (w (1 + i)) + w i := by ac_rfl

/-- Settles O40: SHA256H leaves V[q] and the copy of the old `V[p]` for SHA256H2, which writes the other part of the same
hash update. -/
theorem sha256FourRoundsOfTwoInstructions : Obligations.Sha256FourRoundsOfTwoInstructions := by
  intro s p q c m hp hq _ _ hpq hpc hpm hcopy hs hwrap
  obtain ⟨t, hsha256h, ht, honly⟩ := sha256h_completes q m hp hs
  obtain ⟨u, hsha256h2, hu, huonly⟩ := sha256h2_completes c m hq (honly.cryptoReady hs hwrap)
  refine ⟨t, u, hsha256h, hsha256h2, ?_⟩
  rw [hu, huonly.v p hpq, ht, honly.v q hpq.symm, honly.v c hpc.symm, honly.v m hpm.symm, hcopy, sha256Vars_sha256Hash]

end Sys2Proof.Machine

/-! PROOFS of the family `60_exceptions.md`: what raises the UNDEFINED exception and what it records (O41 to O43), the
refusals (O44), the entry and the return (O45 to O47), and the runs that never raise it (O59). -/

namespace Sys2Proof.Machine

/-! ## What raises the exception -/

/-- `CheckCrypto()` asks for the extension first, whatever the premise on Advanced SIMD says (60_exceptions.md R150). -/
theorem exec_crypto_of_disabled {i : Instr} {s : State} (hi : i.isCrypto = true) (hoff : s.cryptoEnabled = false) :
    exec i s = raiseUndefined .cryptoDisabled (encode i) s := by
  obtain ⟨d, r, hexec⟩ := exec_crypto i hi s
  rw [hexec, cryptoWrite, checkCrypto, hoff]
  rfl

/-- Settles O41: either reason for the absence makes `crypto_enabled` false, which every cryptographic instruction checks
first. -/
theorem disabledCryptoRaisesUndefined : Obligations.DisabledCryptoRaisesUndefined := by
  intro s i hi habsent
  have hoff : s.cryptoEnabled = false := by rcases habsent with h | h <;> simp [State.cryptoEnabled, h]
  rw [exec_crypto_of_disabled hi hoff]
  exact ⟨fun ho => raiseUndefined_of_endsRun ho _ _, fun ho => raiseUndefined_of_entersHandler ho _ _⟩

/-- The one fault the exception can end the run in (60_exceptions.md R159). -/
theorem eq_undefined_of_raiseUndefined {info : UndefinedInfo} {w : InstrWord} {s : State} {r : Fault}
    (h : raiseUndefined info w s = .fault r) : r = .undefined info s.pc w := by
  rcases raiseUndefined_cases info w s with ⟨_, hc⟩ | ⟨_, hc⟩
  · exact Host.Outcome.fault.inj (h.symm.trans hc)
  · nomatch hc.symm.trans h

/-- A cryptographic instruction has one fault: the extension is absent or disabled (60_exceptions.md R150). -/
theorem cryptoWrite_fault {i : Instr} {d : Nat} {v : Quad} {s : State} {r : Fault} (h : cryptoWrite i d v s = .fault r) :
    r = .undefined .cryptoDisabled s.pc (encode i) ∧ s.cryptoEnabled = false := by
  rcases cryptoWrite_cases i d v s with ⟨hoff, hc⟩ | ⟨_, _, hc⟩ | ⟨_, _, _, hc⟩ | ⟨_, hc⟩
  · exact ⟨eq_undefined_of_raiseUndefined (hc.symm.trans h), hoff⟩
  · nomatch hc.symm.trans h
  · nomatch hc.symm.trans h
  · nomatch hc.symm.trans h

/-- A read of an ID register has one fault: the level is EL0 (60_exceptions.md R151). -/
theorem readIdRegister_fault {i : Instr} {t : Nat} {val : Word} {s : State} {r : Fault}
    (h : readIdRegister i t val s = .fault r) : r = .undefined .el0IdRead s.pc (encode i) ∧ s.currentEl = .el0 := by
  rcases readIdRegister_cases i t val s with ⟨hel, hc⟩ | ⟨_, _, hc⟩ | ⟨_, _, _, hc⟩ | ⟨_, hc⟩
  · exact ⟨eq_undefined_of_raiseUndefined (hc.symm.trans h), hel⟩
  · nomatch hc.symm.trans h
  · nomatch hc.symm.trans h
  · nomatch hc.symm.trans h

/-- Settles O42: an instruction is either a cryptographic one or a read of an ID register, and each kind has one fault. -/
theorem onlyTwoUndefinedCauses : Obligations.OnlyTwoUndefinedCauses := by
  intro s i r h
  cases hi : i.isCrypto
  case true =>
    obtain ⟨d, v, hexec⟩ := exec_crypto i hi s
    obtain ⟨hr, hoff⟩ := cryptoWrite_fault (hexec.symm.trans h)
    exact .inl ⟨hr, rfl, hoff⟩
  case false =>
    obtain ⟨t, val, hexec⟩ := exec_idRead i hi s
    obtain ⟨hr, hel⟩ := readIdRegister_fault (hexec.symm.trans h)
    exact .inr ⟨hr, rfl, hel⟩

/-- A step's fault is the fetch's or that of the instruction decoded at the program counter (60_exceptions.md R154). -/
theorem step_fault_cases {s : State} {r : Fault} (h : step s = .fault r) :
    r = .fetchOutsideText s.pc ∨
      ∃ w i, s.mem.fetchWord s.pc = some w ∧ decode w = .ok i ∧ exec i s = .fault r := by
  unfold step at h
  rcases fetch_cases s (fun w => decodeAndRun w (fun i => exec i s)) with
    ⟨_, hc⟩ | ⟨_, _, hc⟩ | ⟨_, _, _, hc⟩ | ⟨w, _, _, hm, hc⟩
  · nomatch hc.symm.trans h
  · nomatch hc.symm.trans h
  · exact .inl (Host.Outcome.fault.inj (h.symm.trans hc))
  · rcases decodeAndRun_cases w (fun i => exec i s) with ⟨i, hd, hrun⟩ | ⟨_, _, hrun⟩
    · exact .inr ⟨w, i, hm, hd, hrun.symm.trans (hc.symm.trans h)⟩
    · nomatch hrun.symm.trans (hc.symm.trans h)

/-- A step's Undefined is raised by the instruction at the program counter. -/
theorem exec_fault_of_step_undefined {s : State} {info : UndefinedInfo} {pc : Word} {w : InstrWord}
    (h : step s = .fault (.undefined info pc w)) :
    ∃ w' i, s.mem.fetchWord s.pc = some w' ∧ decode w' = .ok i ∧ exec i s = .fault (.undefined info pc w) := by
  rcases step_fault_cases h with hfetch | hexec
  · nomatch hfetch
  · exact hexec

/-- Settles O43: both causes record `pc` and the instruction's encoding, and a word that decodes is that encoding. -/
theorem faultRecordsPcAndWord : Obligations.FaultRecordsPcAndWord := by
  intro s info pc w h
  obtain ⟨w', i, hm, hd, hexec⟩ := exec_fault_of_step_undefined h
  obtain ⟨-, hword⟩ := encodeOfDecode w' i hd
  rw [hm, ← hword]
  rcases onlyTwoUndefinedCauses s i _ hexec with ⟨hr, _⟩ | ⟨hr, _⟩
  · cases hr
    exact ⟨rfl, rfl⟩
  · cases hr
    exact ⟨rfl, rfl⟩

/-! ## What is refused -/

/-- `pc + 4` past the top of the address space is refused (10_state.md R24). -/
theorem advance_of_wrap {s : State} (h : Config.addressCount ≤ s.pc.toNat + 4) : advance s = .refused .pcWrap :=
  if_neg (Nat.not_lt.mpr h)

/-- With the extension enabled, the premise on Advanced SIMD decides (60_exceptions.md R150). -/
theorem cryptoWrite_of_enabled {s : State} (he : s.cryptoEnabled = true) (i : Instr) (d : Nat) (v : Quad) :
    cryptoWrite i d v s =
      if s.params.simdAccessEnabled then advance (s.writeV d v) else .refused .simdTrapUnmodelled := by
  rw [cryptoWrite, checkCrypto, he]
  cases s.params.simdAccessEnabled <;> rfl

/-- Above EL0, the premise on traps decides (40_id_register_read.md R100). -/
theorem readIdRegister_of_ne_el0 {s : State} (hel : s.currentEl ≠ .el0) (i : Instr) (t : Nat) (val : Word) :
    readIdRegister i t val s =
      if s.params.idReadsNotTrapped then advance (s.writeX t val) else .refused .idReadTrapUnmodelled := by
  rw [readIdRegister, (idReadAllowed_iff _ _).2 hel]
  cases s.params.idReadsNotTrapped <;> rfl

/-- Settles O44: past the check that raises Undefined, each kind of instruction asks for its premise and then advances. -/
theorem falsePremisesRefused : Obligations.FalsePremisesRefused := by
  intro s i
  refine ⟨fun hi he hs => ?_, fun hi hel ht => ?_, fun hi he hs hp => ?_, fun hi hel ht hp => ?_⟩
  · obtain ⟨d, v, hexec⟩ := exec_crypto i hi s
    rw [hexec, cryptoWrite_of_enabled he, hs]
    rfl
  · obtain ⟨t, val, hexec⟩ := exec_idRead i hi s
    rw [hexec, readIdRegister_of_ne_el0 hel, ht]
    rfl
  · obtain ⟨d, v, hexec⟩ := exec_crypto i hi s
    rw [hexec, cryptoWrite_of_enabled he, if_pos hs, advance_of_wrap (by rwa [State.writeV_pc])]
  · obtain ⟨t, val, hexec⟩ := exec_idRead i hi s
    rw [hexec, readIdRegister_of_ne_el0 hel, if_pos ht, advance_of_wrap (by rwa [State.writeX_pc])]

/-! ## Taking the exception -/

/-- A handler never runs at EL0 (60_exceptions.md R156). -/
theorem HandlerLevel.toEL_ne_el0 (l : HandlerLevel) : l.toEL ≠ .el0 := by
  cases l <;> decide

/-- From EL0 the target is EL1, or EL2 under HCR_EL2.TGE (60_exceptions.md R156). -/
theorem State.exceptionTarget_of_el0 {s : State} (h : s.currentEl = .el0) :
    s.exceptionTarget = if s.params.hcrTge then .el2 else .el1 := by
  rw [State.exceptionTarget, show s.pstate.el = .el0 from h]

/-- From any other level the target is that level (60_exceptions.md R156). -/
theorem State.exceptionTarget_of_toEL {s : State} {l : HandlerLevel} (h : s.currentEl = l.toEL) : s.exceptionTarget = l := by
  rw [State.exceptionTarget, show s.pstate.el = l.toEL from h]
  cases l <;> rfl

/-- The three routes of the exception (60_exceptions.md R156). -/
theorem State.exceptionTarget_of_route {s : State} {l : HandlerLevel}
    (h : s.currentEl = .el0 ∧ s.params.hcrTge = false ∧ l = .el1 ∨ s.currentEl = .el0 ∧ s.params.hcrTge = true ∧ l = .el2 ∨
      s.currentEl = l.toEL) : s.exceptionTarget = l := by
  rcases h with ⟨hel, htge, rfl⟩ | ⟨hel, htge, rfl⟩ | hel
  · rw [s.exceptionTarget_of_el0 hel, htge]
    rfl
  · rw [s.exceptionTarget_of_el0 hel, htge]
    rfl
  · exact s.exceptionTarget_of_toEL hel

/-- Above EL0 the exception stays at the current level (60_exceptions.md R156). -/
theorem State.toEL_exceptionTarget {s : State} (h : s.currentEl ≠ .el0) : s.exceptionTarget.toEL = s.currentEl := by
  unfold State.exceptionTarget State.currentEl
  cases hel : s.pstate.el
  case el0 => exact absurd hel h
  case el1 | el2 | el3 => rfl

/-- The vector of an exception from EL0, a lower level than any handler's (60_exceptions.md R158). -/
theorem State.vectorOffset_of_el0 {s : State} (h : s.currentEl = .el0) (l : HandlerLevel) : s.vectorOffset l = 0x400 :=
  if_neg (h.trans_ne l.toEL_ne_el0.symm)

/-- The vector of an exception from a handler's level goes by the stack-pointer select (60_exceptions.md R158). -/
theorem State.vectorOffset_of_ne_el0 {s : State} (h : s.currentEl ≠ .el0) :
    s.vectorOffset s.exceptionTarget = if s.pstate.spSel then 0x200 else 0x000 :=
  if_pos (s.toEL_exceptionTarget h).symm

/-- The handler runs at the exception's target level (60_exceptions.md R157). -/
theorem takeException_currentEl (e : Syndrome) (s : State) : (takeException e s).currentEl = s.exceptionTarget.toEL := rfl

/-- Settles O45: every route has one target, whose bank is written, and whose vector base the handler's address is counted
from. -/
theorem undefinedEntry : Obligations.UndefinedEntry := by
  intro s l hroute
  obtain rfl := s.exceptionTarget_of_route hroute
  intro t
  have hpc : t.pc = (s.bank s.exceptionTarget).vbar + s.vectorOffset s.exceptionTarget := takeException_pc _ s
  rw [takeException_bank_target, hpc]
  refine ⟨rfl, rfl, rfl, rfl, rfl, rfl, rfl, rfl, rfl, rfl, rfl, fun hel => ?_, fun hel hsp => ?_, fun hel hsp => ?_⟩
  · rw [s.vectorOffset_of_el0 hel]
  · rw [s.vectorOffset_of_ne_el0 hel, hsp]
    exact BitVec.add_zero _
  · rw [s.vectorOffset_of_ne_el0 hel, hsp]
    rfl

/-- The entry leaves every general register alone (60_exceptions.md R157). -/
theorem takeException_readX (e : Syndrome) (s : State) (r : Nat) : (takeException e s).readX r = s.readX r := by
  simp [State.readX]

/-- The entry leaves every SIMD register alone (60_exceptions.md R157). -/
theorem takeException_readV (e : Syndrome) (s : State) (j : Nat) : (takeException e s).readV j = s.readV j := by
  simp [State.readV]

/-- Settles O46: the entry writes the target's bank, the process state and `pc`, and a level that the handler does not run
at is not the target. -/
theorem entryFrame : Obligations.EntryFrame := by
  intro s e t
  exact ⟨takeException_readX e s, takeException_readV e s, takeException_sp e s, takeException_fpcr e s,
    takeException_fpsr e s, takeException_params e s, fun a => congrArg (Memory.readByte · a) (takeException_mem e s),
    fun l hl => takeException_bank_other e s (ne_of_apply_ne HandlerLevel.toEL hl)⟩

/-! ## Returning from it -/

/-- A return at a handler's level to the same level or a lower one is legal (60_exceptions.md R160, R166). -/
theorem exceptionReturn_of_rank_le {s : State} {l : HandlerLevel} (hel : s.currentEl = l.toEL)
    (hrank : (s.bank l).spsr.el.rank ≤ s.currentEl.rank) :
    exceptionReturn s = .next { s with pc := (s.bank l).elr, pstate := (s.bank l).spsr } := by
  unfold exceptionReturn
  rw [show s.pstate.el = l.toEL from hel]
  rw [hel] at hrank
  cases l
  case el1 | el2 | el3 => exact if_pos hrank

/-- Right after an exception the return is legal, for the target is no lower than the level it was taken from; it restores
what the entry saved (60_exceptions.md R157, R160). -/
theorem exceptionReturn_takeException (e : Syndrome) (s : State) :
    exceptionReturn (takeException e s) = .next { takeException e s with pc := s.pc, pstate := s.pstate } := by
  have hbank := takeException_bank_target e s
  rw [exceptionReturn_of_rank_le (takeException_currentEl e s) (by rw [hbank]; exact s.rank_le_exceptionTarget), hbank]

/-- Settles O47: the state returned to is the one after the entry with `pc` and the process state restored, so the entry's
frame says what else stands. -/
theorem returnUndoesEntry : Obligations.ReturnUndoesEntry := by
  intro s e
  exact ⟨_, exceptionReturn_takeException e s, rfl, rfl, takeException_x e s, takeException_v e s, takeException_mem e s,
    takeException_params e s, takeException_sp e s, takeException_fpcr e s, takeException_fpsr e s,
    takeException_freeCount e s, fun _ hl => takeException_bank_other e s hl, rfl, takeException_vbar e s _⟩

/-! ## Runs that never raise it -/

/-- With the extension enabled, above EL0, neither cause of Undefined is there (60_exceptions.md R150, R151). -/
theorem step_ne_undefined {s : State} (he : s.cryptoEnabled = true) (hel : s.currentEl ≠ .el0) (info : UndefinedInfo)
    (pc : Word) (w : InstrWord) : step s ≠ .fault (.undefined info pc w) := by
  intro h
  obtain ⟨_, i, _, _, hexec⟩ := exec_fault_of_step_undefined h
  rcases onlyTwoUndefinedCauses s i _ hexec with ⟨_, _, hoff⟩ | ⟨_, _, hel0⟩
  · exact absurd (he.symm.trans hoff) (by decide)
  · exact hel hel0

/-- With the extension enabled, above EL0, an instruction that answers a next state completes, and changes nothing beside
the registers and `pc`. -/
theorem exec_next_of_enabled {i : Instr} {s t : State} (he : s.cryptoEnabled = true) (hel : s.currentEl ≠ .el0)
    (h : exec i s = .next t) : t.pc = s.pc + 4 ∧ SameBesideRegisters s t := by
  cases hi : i.isCrypto
  case true =>
    obtain ⟨d, v, hexec⟩ := exec_crypto i hi s
    obtain rfl := cryptoWrite_next_of_enabled he (hexec.symm.trans h)
    exact ⟨rfl, (onlyVAndPc_writeV s d v).rest⟩
  case false =>
    obtain ⟨r, val, hexec⟩ := exec_idRead i hi s
    obtain rfl := readIdRegister_next_of_ne_el0 hel (hexec.symm.trans h)
    exact ⟨rfl, (onlyXAndPc_writeX s r val).rest⟩

theorem step_next_of_enabled {s t : State} (he : s.cryptoEnabled = true) (hel : s.currentEl ≠ .el0)
    (h : step s = .next t) : t.pc = s.pc + 4 ∧ SameBesideRegisters s t := by
  obtain ⟨_, _, _, _, _, _, hexec⟩ := step_next_cases h
  exact exec_next_of_enabled he hel hexec

section SameBesideRegisters

variable {s t u : State}

theorem SameBesideRegisters.refl (s : State) : SameBesideRegisters s s := by
  constructor <;> intros <;> rfl

theorem SameBesideRegisters.trans (h : SameBesideRegisters s t) (h' : SameBesideRegisters t u) :
    SameBesideRegisters s u where
  pstate := h'.pstate.trans h.pstate
  sp := h'.sp.trans h.sp
  fpcr := h'.fpcr.trans h.fpcr
  fpsr := h'.fpsr.trans h.fpsr
  el1 := h'.el1.trans h.el1
  el2 := h'.el2.trans h.el2
  el3 := h'.el3.trans h.el3
  params := h'.params.trans h.params
  freeCount := h'.freeCount.trans h.freeCount
  mem := fun a => (h'.mem a).trans (h.mem a)

/-- The extension is enabled by the launch parameters (10_state.md R27). -/
theorem SameBesideRegisters.cryptoEnabled (h : SameBesideRegisters s t) : t.cryptoEnabled = s.cryptoEnabled := by
  rw [State.cryptoEnabled, h.params, State.cryptoEnabled]

/-- The level is part of the process state (10_state.md R58). -/
theorem SameBesideRegisters.currentEl (h : SameBesideRegisters s t) : t.currentEl = s.currentEl :=
  congrArg PState.el h.pstate

end SameBesideRegisters

/-- With the extension enabled, above EL0, a whole run changes nothing beside the registers and `pc`: each step keeps the
two hypotheses for the next one. -/
theorem sameBesideRegisters_of_reaches {s t : State} (he : s.cryptoEnabled = true) (hel : s.currentEl ≠ .el0)
    (h : Reaches s t) : SameBesideRegisters s t := by
  induction h with
  | refl => exact .refl s
  | step _ hstep ih =>
    obtain ⟨-, hsame⟩ := step_next_of_enabled (ih.cryptoEnabled.trans he) (ih.currentEl ▸ hel) hstep
    exact ih.trans hsame

/-- Settles O59: a step changes nothing beside the registers and `pc`, so along a run both causes of Undefined stay away. -/
theorem enabledRunNeverUndefined : Obligations.EnabledRunNeverUndefined := by
  refine ⟨fun s he hel => ⟨step_ne_undefined he hel, fun t h => ?_⟩, fun s t he hel h => ?_⟩
  · obtain ⟨hpc, hsame⟩ := step_next_of_enabled he hel h
    exact ⟨hsame.cryptoEnabled.trans he, hsame.currentEl ▸ hel, hpc, hsame.pstate, hsame.el1, hsame.el2, hsame.el3⟩
  · have hsame := sameBesideRegisters_of_reaches he hel h
    have hen : t.cryptoEnabled = true := hsame.cryptoEnabled.trans he
    exact ⟨hen, hsame.pstate, hsame.el1, hsame.el2, hsame.el3, step_ne_undefined hen (hsame.currentEl ▸ hel)⟩

end Sys2Proof.Machine

/-! PROOFS of the family `70_reset_and_hazards.md`: the sampling of CRYPTODISABLE (O54), the state a run starts in (O55), and the
end of a straight-line run (O60). -/

namespace Sys2Proof.Machine

/-! ## Sampling CRYPTODISABLE -/

/-- Settles O54: the sampled level is a launch parameter, from which `crypto_enabled` and both registers are read and which
every step keeps; a second sampling writes the same parameter. -/
theorem resetSamplesCryptodisable : Obligations.ResetSamplesCryptodisable := by
  refine ⟨fun s asserted => ?_, fun cores asserted => ⟨List.length_map _, ?_⟩⟩
  · obtain ⟨hisar0, -⟩ := idAa64isar0Value (s.sampleCryptodisable asserted)
    obtain ⟨hisar5, -⟩ := idIsar5Value (s.sampleCryptodisable asserted)
    refine ⟨rfl, hisar0, hisar5, rfl, fun _ => rfl, fun t h => ?_⟩
    obtain ⟨-, hparams, hen⟩ := stepKeepsTextAndParameters _ t h
    exact ⟨congrArg Params.cryptodisableAtReset hparams, hen⟩
  · intro t ht
    obtain ⟨s, -, rfl⟩ := List.mem_map.1 ht
    exact s.sampleCryptodisable_level asserted

/-! ## The memory of a program text -/

theorem pcAligned_iff (a : Word) : pcAligned a = true ↔ a.toNat % 4 = 0 := by
  rw [pcAligned_eq, decide_eq_true_iff]

/-- An aligned word lies inside the address space (20_memory.md R60). -/
theorem add_four_le_of_pcAligned {a : Word} (ha : pcAligned a = true) : a.toNat + 4 ≤ Config.addressCount := by
  have ha4 := (pcAligned_iff a).1 ha
  have hlt := a.isLt
  change a.toNat + 4 ≤ 2 ^ 64
  omega

/-- What a read answers depends on the bytes it touches alone. -/
theorem Memory.read_congr {m m' : Memory} {addr n : Nat} (h : ∀ i < n, m.readByte (addr + i) = m'.readByte (addr + i)) :
    m.read addr n = m'.read addr n := by
  induction n with
  | zero => rfl
  | succ n ih => rw [Memory.read, Memory.read, ih fun i hi => h i (by omega), h n (by omega)]

/-- Two aligned words do not overlap, so the write of one leaves the fetch of the other alone (20_memory.md R61, R65). -/
theorem Memory.fetchWord_write_ne (m : Memory) {a b : Word} (w : InstrWord) (hm : m.wf = true)
    (ha : pcAligned a = true) (hb : pcAligned b = true) (hne : a ≠ b) :
    (m.write a.toNat 4 w).fetchWord b = m.fetchWord b := by
  have ha4 := (pcAligned_iff a).1 ha
  have hb4 := (pcAligned_iff b).1 hb
  have hne' : a.toNat ≠ b.toNat := fun h => hne (BitVec.eq_of_toNat_eq h)
  refine Memory.read_congr fun i hi => Memory.readByte_write_outside m (n := 4) w hm ?_
  omega

/-- A later word is written over the memory of the words before it. -/
theorem textMemory_append_singleton (text : List (Word × InstrWord)) (e : Word × InstrWord) :
    textMemory (text ++ [e]) = (textMemory text).write e.1.toNat 4 e.2 := by
  rw [textMemory, List.foldl_append]
  rfl

/-- No word is fetched where an aligned text names none (20_memory.md R61). -/
theorem fetchWord_textMemory_eq_none {text : List (Word × InstrWord)} {a : Word}
    (htext : ∀ e ∈ text, pcAligned e.1 = true) (ha : pcAligned a = true) (hne : ∀ e ∈ text, e.1 ≠ a) :
    (textMemory text).fetchWord a = none := by
  induction text using List.reverseRecOn with
  | nil => rfl
  | append_singleton text e ih =>
    simp only [List.forall_mem_append, List.forall_mem_singleton] at htext hne
    rw [textMemory_append_singleton, Memory.fetchWord_write_ne _ _ (textMemory_wf text) htext.2 ha hne.2,
      ih htext.1 hne.1]

/-- Each word of a text that is a map is fetched at its address: no later word is written over it (20_memory.md R61, R63). -/
theorem fetchWord_textMemory {text : List (Word × InstrWord)} (hmap : text.Pairwise (fun e f => e.1 ≠ f.1))
    (htext : ∀ e ∈ text, pcAligned e.1 = true) : ∀ e ∈ text, (textMemory text).fetchWord e.1 = some e.2 := by
  induction text using List.reverseRecOn with
  | nil => nofun
  | append_singleton text f ih =>
    obtain ⟨hmap, -, hne⟩ := List.pairwise_append.1 hmap
    obtain ⟨htext, hf⟩ := List.forall_mem_append.1 htext
    have hf := List.forall_mem_singleton.1 hf
    rw [textMemory_append_singleton, List.forall_mem_append, List.forall_mem_singleton]
    constructor
    · intro e he
      have hfe : f.1 ≠ e.1 := (hne e he f (List.mem_singleton_self f)).symm
      rw [Memory.fetchWord_write_ne _ _ (textMemory_wf text) hf (htext e he) hfe, ih hmap htext e he]
    · exact Memory.fetchWord_write _ _ _ (textMemory_wf text) (add_four_le_of_pcAligned hf)

/-- Settles O55: the record's fields are the state's; the text is written word by word to an empty memory in canonical form;
and the vector bases are those of reset, which are zero. -/
theorem launchMeetsInvariant : Obligations.LaunchMeetsInvariant := by
  refine fun l => ⟨rfl, rfl, rfl, rfl, rfl, rfl, fun ⟨hmap, htext⟩ => ?_, fun hpc => ?_⟩
  · exact ⟨fetchWord_textMemory hmap htext, fun a ha hne => fetchWord_textMemory_eq_none htext ha hne⟩
  · have hvbar : pcAligned ExceptionBank.reset.vbar = true := rfl
    exact ⟨hpc, textMemory_wf l.text, hvbar, hvbar, hvbar⟩

/-! ## The end of a run -/

theorem raiseUndefined_ne_refused (info : UndefinedInfo) (w : InstrWord) (s : State) (r : Refusal) :
    raiseUndefined info w s ≠ .refused r := by
  rcases raiseUndefined_cases info w s with ⟨_, hc⟩ | ⟨_, hc⟩
  · exact fun h => nomatch hc.symm.trans h
  · exact fun h => nomatch hc.symm.trans h

/-- The end of a run is the fetch's answer, and never an instruction's (70_reset_and_hazards.md R188). -/
theorem exec_ne_runEnded (i : Instr) (s : State) : exec i s ≠ .refused .runEnded := by
  intro h
  cases hi : i.isCrypto
  case true =>
    obtain ⟨d, v, hexec⟩ := exec_crypto i hi s
    rw [hexec] at h
    rcases cryptoWrite_cases i d v s with ⟨_, hc⟩ | ⟨_, _, hc⟩ | ⟨_, _, _, hc⟩ | ⟨_, hc⟩
    · exact raiseUndefined_ne_refused _ _ s _ (hc.symm.trans h)
    · nomatch hc.symm.trans h
    · nomatch hc.symm.trans h
    · nomatch hc.symm.trans h
  case false =>
    obtain ⟨t, val, hexec⟩ := exec_idRead i hi s
    rw [hexec] at h
    rcases readIdRegister_cases i t val s with ⟨_, hc⟩ | ⟨_, _, hc⟩ | ⟨_, _, _, hc⟩ | ⟨_, hc⟩
    · exact raiseUndefined_ne_refused _ _ s _ (hc.symm.trans h)
    · nomatch hc.symm.trans h
    · nomatch hc.symm.trans h
    · nomatch hc.symm.trans h

/-- A step answers the end of the run at `end_pc` only (70_reset_and_hazards.md R188). -/
theorem pc_eq_endPc_of_step_runEnded {s : State} (h : step s = .refused .runEnded) : s.pc = s.params.endPc := by
  unfold step at h
  rcases fetch_cases s (fun w => decodeAndRun w (fun i => exec i s)) with
    ⟨_, hc⟩ | ⟨_, he, _⟩ | ⟨_, _, _, hc⟩ | ⟨w, _, _, _, hc⟩
  · nomatch hc.symm.trans h
  · exact he
  · nomatch hc.symm.trans h
  · rcases decodeAndRun_cases w (fun i => exec i s) with ⟨i, _, hrun⟩ | ⟨_, _, hrun⟩
    · exact absurd (hrun.symm.trans (hc.symm.trans h)) (exec_ne_runEnded i s)
    · nomatch hrun.symm.trans (hc.symm.trans h)

/-- Where the UNDEFINED exception ends the run, control never leaves the straight line (10_state.md R24, 60_exceptions.md
R159). -/
theorem step_next_pc_of_endsRun {s t : State} (ho : s.params.undefinedOutcome = .endsRun) (h : step s = .next t) :
    t.pc = s.pc + 4 := by
  obtain ⟨-, ⟨-, -, -, -, hpc⟩ | ⟨ho', -⟩⟩ := stepsKeepProcessState s t h
  · exact hpc
  · nomatch ho.symm.trans ho'

/-! ## Runs, from their first step -/

section Run

variable {s t u : State} (k : Nat)

theorem run_succ_of_next (h : step s = .next t) : Sys2Proof.core.run (k + 1) s = Sys2Proof.core.run k t := by
  simp only [Host.Core.run, Host.Check.core_step, h]

theorem run_succ_of_fault {r : Fault} (h : step s = .fault r) : Sys2Proof.core.run (k + 1) s = .fault r := by
  simp only [Host.Core.run, Host.Check.core_step, h]

theorem run_succ_of_refused {r : Refusal} (h : step s = .refused r) : Sys2Proof.core.run (k + 1) s = .refused r := by
  simp only [Host.Core.run, Host.Check.core_step, h]

theorem reaches_of_step_next (h : step s = .next t) (htu : Reaches t u) : Reaches s u := by
  induction htu with
  | refl => exact .step (.refl s) h
  | step _ hstep ih => exact .step ih hstep

end Run

/-- A distance shorter than the address space does not lead back to where it starts. -/
theorem add_ofNat_ne_self {pc : Word} {n : Nat} (hpos : 0 < n) (hlt : n < 2 ^ 64) : pc ≠ pc + BitVec.ofNat 64 n := by
  bv_omega

/-- Settles O60, by induction on the number of instructions: the first step moves `pc` and leaves a run of one less to the
same `end_pc`, or it stops the run, which ends only at `end_pc`. -/
theorem straightLineRun : Obligations.StraightLineRun := by
  intro k
  induction k with
  | zero =>
    intro s _ ha _ he
    have hpc : s.pc = s.params.endPc := by simp [he]
    exact .inl ⟨s, rfl, ⟨.refl s, hpc, ha⟩, step_of_endPc ha hpc, fun _ _ hj => absurd hj (Nat.not_lt_zero _)⟩
  | succ k ih =>
    intro s ho ha hlt he
    have hne : s.pc ≠ s.params.endPc := by
      rw [he]
      exact add_ofNat_ne_self (by omega) (by omega)
    cases hstep : step s with
    | fault r => exact .inr (.inl ⟨r, run_succ_of_fault k hstep⟩)
    | refused r =>
      refine .inr (.inr ⟨r, run_succ_of_refused k hstep, ?_⟩)
      rintro rfl
      exact hne (pc_eq_endPc_of_step_runEnded hstep)
    | next t =>
      have hpc := step_next_pc_of_endsRun ho hstep
      have hparams := step_next_params hstep
      have hroom : t.pc.toNat + 4 * k < 2 ^ 64 := by bv_omega
      have hend : t.params.endPc = t.pc + BitVec.ofNat 64 (4 * k) := by
        rw [hparams, he, hpc]
        bv_omega
      rw [run_succ_of_next k hstep]
      rcases ih t (hparams ▸ ho) (by rw [hpc, pcAligned_add_four, ha]) hroom hend with
        ⟨u, hrun, ⟨hreach, hu⟩, hlast, hbefore⟩ | hstops
      · refine .inl ⟨u, hrun, ⟨reaches_of_step_next hstep hreach, hu⟩, hlast, fun j v hj hv => ?_⟩
        cases j with
        | zero =>
          cases hv
          exact hne
        | succ j =>
          rw [run_succ_of_next j hstep] at hv
          exact hparams ▸ hbefore j v (by omega) hv
      · exact .inr hstops

end Sys2Proof.Machine

/-! PROOFS of the family `other`: an instruction placed where the step fetches is run (O53), the spec's words decode (O1), and
the state after reset meets the invariant (O56). -/

namespace Sys2Proof

/-- Settles O1: each of the spec's words is the word of the instruction it names, built from the formats of 30_encoding.md R76
to R80. -/
theorem specWordsDecode : Obligations.SpecWordsDecode :=
  ⟨decodeOfEncode (.aese 0 1) rfl, decodeOfEncode (.sha1c 0 1 2) rfl, decodeOfEncode (.sha1h 0 1) rfl,
    decodeOfEncode (.pmull 0 1 2) rfl, decodeOfEncode (.mrsIdIsar5 5) rfl, decodeOfEncode (.pmull2 17 9 31) rfl,
    decodeOfEncode (.mrsIdIsar5 31) rfl⟩

end Sys2Proof

namespace Sys2Proof.Machine

/-! ## A word placed where the next step fetches -/

/-- Clearing the two low bits of an address aligns it (20_memory.md R65). -/
theorem pcAligned_and_mask (a : Word) : pcAligned (a &&& 0xFFFFFFFFFFFFFFFC#64) = true := by
  rw [pcAligned, beq_iff_eq, BitVec.extractLsb'_and]
  exact BitVec.and_zero

theorem pcAligned_withFetchWord (s : State) (nbits w : Nat) : pcAligned (s.withFetchWord nbits w).pc = true :=
  pcAligned_and_mask s.pc

/-- An `end_pc` at the placed word has moved to a misaligned address, which no aligned `pc` equals. -/
theorem withFetchWord_pc_ne_endPc (s : State) (nbits w : Nat) :
    (s.withFetchWord nbits w).pc ≠ (s.withFetchWord nbits w).params.endPc := by
  have ha := pcAligned_withFetchWord s nbits w
  simp only [State.withFetchWord] at ha ⊢
  split
  case isTrue =>
    intro h
    rw [h] at ha
    exact absurd ha (by decide)
  case isFalse h => exact Ne.symm h

/-- The placed word is fetched back: the aligned `pc` leaves room for its four bytes (20_memory.md R60, R63). -/
theorem fetchWord_withFetchWord {s : State} (hm : s.mem.wf = true) (w : InstrWord) :
    (s.withFetchWord 32 w.toNat).mem.fetchWord (s.withFetchWord 32 w.toNat).pc = some w := by
  have hw : BitVec.ofNat 32 (w.toNat % 2 ^ 32) = w := by
    rw [Nat.mod_eq_of_lt w.isLt, BitVec.ofNat_toNat, BitVec.setWidth_eq]
  have hfetch := Memory.fetchWord_write s.mem (s.pc &&& 0xFFFFFFFFFFFFFFFC#64) (BitVec.ofNat 32 (w.toNat % 2 ^ 32)) hm
    (add_four_le_of_pcAligned (pcAligned_and_mask s.pc))
  exact hfetch.trans (congrArg some hw)

/-- Settles O53: the placed word is fetched at an aligned `pc` that is not `end_pc`, and decodes to the instruction it
encodes. -/
theorem placedInstructionRuns : Obligations.PlacedInstructionRuns := fun s i hm hi =>
  stepRunsDecodedInstruction _ (encode i) i (pcAligned_withFetchWord s _ _) (withFetchWord_pc_ne_endPc s _ _)
    (fetchWord_withFetchWord hm (encode i)) (decodeOfEncode i hi)

/-! ## The state after reset -/

theorem pcAligned_reset_vbar : pcAligned ExceptionBank.reset.vbar = true := rfl

/-- Settles O56: `pc` and the vector bases are zero after reset, and no program text is loaded. -/
theorem resetMeetsInvariant : Obligations.ResetMeetsInvariant where
  pc := rfl
  mem := textMemory_wf []
  vbar1 := pcAligned_reset_vbar
  vbar2 := pcAligned_reset_vbar
  vbar3 := pcAligned_reset_vbar

end Sys2Proof.Machine
